-- ==== Sys2Proof/Word.lean ====
section
/-! DEFINITION. The two word types of the block (00_scope.md R6, R8): a bus datum or register is a byte, a bus
address or the program counter is a 16-bit word. The helpers that split, join and extend them stand in
Sys2Proof/Machine/Bits.lean. -/

namespace Sys2Proof

/-- "Byte" of R8: an 8-bit unsigned value. -/
abbrev Byte := BitVec 8

/-- "Word" of R8: a 16-bit unsigned value; every bus address and the program counter (R6, R60). -/
abbrev Word := BitVec 16

end Sys2Proof
end

