-- ==== Sys2Proof/Machine/Bits.lean ====
section
/-! DEFINITION. Splitting, joining and extending bytes and words (00_scope.md R8, 20_memory.md R63, 10_state.md R36). -/

namespace Sys2Proof.Machine

/-- `hi(w) = w[15:8]` (R8). -/
def hi (w : Word) : Byte := w.extractLsb' 8 8

/-- `lo(w) = w[7:0]` (R8). -/
def lo (w : Word) : Byte := w.extractLsb' 0 8

/-- `a:b` of two bytes, "a word whose high byte is a and low byte is b" (R8). -/
def joinBytes (high low : Byte) : Word := high ++ low

/-- `zext_16(b)` (R8): the zero-page address a byte names (R93). -/
def zext16 (b : Byte) : Word := b.setWidth 16

/-- `sext_16(b)` (R8): a branch displacement (R93). -/
def sext16 (b : Byte) : Word := b.signExtend 16

/-- The stack byte that the stack pointer `p` addresses, `0x0100 + S` (R33). -/
def stackAddr (p : Byte) : Word := 0x0100#16 + zext16 p

/-- R130: two addresses lie on different pages. -/
def otherPage (u v : Word) : Bool := hi u != hi v

/-- The address `t` of R116 and R119, formed before the high byte is corrected: `hi:((lo + idx) mod 256)`. -/
def uncorrected (base : Word) (idx : Byte) : Word := joinBytes (hi base) (lo base + idx)

/-- The pointer's second byte of R120: "the same page as the pointer", `hi:((lo + 1) mod 256)`. -/
def nextInPage (ptr : Word) : Word := joinBytes (hi ptr) (lo ptr + 1#8)

end Sys2Proof.Machine
end

