-- ==== Sys2Proof/Config.lean ====
section
/-! DEFINITION. What an instance of the block is built with (00_scope.md R7, 10_state.md R53), the answers its host
can give (R17), and the free values: constants with no body, so that nothing can be proved about which value they
take (93_implementation_defined.md U5, U8). -/

namespace Sys2Proof

/-- `DECIMAL_UNDOC_MODE` (R7, D3): what decimal ADC and SBC give where the original chip documents nothing. -/
inductive DecimalMode where
  | reference
  | draw
  deriving DecidableEq, Repr

/-- `RUN_RESULT_MODE` (R7, D11): how `run` encodes its cycle count. -/
inductive ResultMode where
  | nat
  | mod65536
  deriving DecidableEq, Repr

/-- The answers of the host's poll function (R17). -/
inductive PollSignal where
  /-- "continue running": the spec's Continue -/
  | cont
  | irq
  | nmi
  | quit
  deriving DecidableEq, Repr, Inhabited

/-- One call of the host's poll function: its answer, and the `interupt` calls the host makes from inside the
callback (R258, R263: the latches are read when the poll returns). By D21 a call made from a bus callback of the step
that ends in this poll has the same effect, so it is entered here too. -/
structure PollReply where
  signal : PollSignal
  raisesIrq : Bool
  raisesNmi : Bool
  deriving DecidableEq, Repr, Inhabited

/-- The construction parameters that are values (R7, R53): "fixed at construction and not changed by any operation". The
three that are host functions are `Machine.Callbacks`, the other argument of construction (HostOps.lean). -/
structure Params where
  /-- `CLOCK_HZ`: informational; no rule reads it. -/
  clockHz : Nat
  /-- `PERIOD`, the interrupt-check period in cycles; at least 1 (D19). -/
  period : Nat
  /-- `RESET_SP`, an OPEN parameter (D5). -/
  resetSp : Byte
  decimalMode : DecimalMode
  resultMode : ResultMode
  deriving DecidableEq, Repr

namespace Config

/-- FREE VALUE (U5, D3; assumption log 4): the n-th undocumented byte of a decimal ADC or SBC with
`DECIMAL_UNDOC_MODE = Draw`. -/
opaque freeByte : Nat → Byte

/-- FREE VALUE (U5, D3; assumption log 4): the n-th undocumented flag bit of a decimal ADC or SBC with
`DECIMAL_UNDOC_MODE = Draw`. -/
opaque freeBit : Nat → Bool

/-- FREE VALUE (U8, D20; assumption log 3): the host's answer to a poll beyond the answers State lists. -/
opaque freeReply : Nat → PollReply

end Config

end Sys2Proof
end

