-- ==== Sys2Proof/Syntax.lean ====
section
/-! DEFINITION. The instructions (30_encoding.md R90 to R102). Every row of spec/opcode_table.json is one constructor
of `Instr` applied to one constructor of the operand type it takes: the table's mnemonic is the constructor of
`Instr`, the table's addressing mode is the constructor of the operand. The 105 ILLEGAL rows are the constructor
`illegal` applied to the opcode byte. A mode's operand bytes are held assembled, as R93 says. -/

namespace Sys2Proof

/-- The addressing modes that have an effective address (R91): what the operand bytes of each give (R93). -/
inductive MemMode where
  | zp (zaddr : Byte)
  | zpx (base : Byte)
  | zpy (base : Byte)
  | abs (addr : Word)
  | absx (base : Word)
  | absy (base : Word)
  | izx (base : Byte)
  | izy (pointer : Byte)
  deriving DecidableEq, Repr

/-- The operand of a read-class instruction (R110): immediate, or a byte in memory. -/
inductive ReadMode where
  | imm (value : Byte)
  | mem (mode : MemMode)
  deriving DecidableEq, Repr

/-- The operand of a shift or rotate (R110, read-modify-write class): the accumulator, or a byte in memory. -/
inductive RmwMode where
  | acc
  | mem (mode : MemMode)
  deriving DecidableEq, Repr

/-- The operand of JMP (R219): absolute, or indirect through a pointer. -/
inductive JmpMode where
  | abs (target : Word)
  | ind (pointer : Word)
  deriving DecidableEq, Repr

/-- The 56 documented instructions (R96) and the illegal opcodes (R100), in the order of the section files. Which
memory modes each may take (R97) is `wellFormed` in WellFormed.lean. -/
inductive Instr where
  -- 41_load_store_transfer.md
  | lda (m : ReadMode)
  | ldx (m : ReadMode)
  | ldy (m : ReadMode)
  | sta (m : MemMode)
  | stx (m : MemMode)
  | sty (m : MemMode)
  | tax
  | tay
  | txa
  | tya
  | tsx
  | txs
  -- 42_arithmetic_logic.md
  | adc (m : ReadMode)
  | sbc (m : ReadMode)
  | and (m : ReadMode)
  | ora (m : ReadMode)
  | eor (m : ReadMode)
  | cmp (m : ReadMode)
  | cpx (m : ReadMode)
  | cpy (m : ReadMode)
  | bit (m : ReadMode)
  -- 43_shift_incdec.md
  | asl (m : RmwMode)
  | lsr (m : RmwMode)
  | rol (m : RmwMode)
  | ror (m : RmwMode)
  | inc (m : MemMode)
  | dec (m : MemMode)
  | inx
  | iny
  | dex
  | dey
  -- 44_control_transfer.md; `disp` is the displacement byte, read as two's complement (R93)
  | bcc (disp : Byte)
  | bcs (disp : Byte)
  | beq (disp : Byte)
  | bne (disp : Byte)
  | bmi (disp : Byte)
  | bpl (disp : Byte)
  | bvc (disp : Byte)
  | bvs (disp : Byte)
  | jmp (m : JmpMode)
  /-- `target` is the operand as the instruction's bytes hold it. The machine reads the target's high byte only after
  the pushes (R123), so the meaning takes the low byte from here and the high byte from the bus. -/
  | jsr (target : Word)
  | rts
  -- 45_stack_flags_system.md
  | pha
  | php
  | pla
  | plp
  | clc
  | sec
  | cli
  | sei
  | cld
  | sed
  | clv
  | nop
  /-- `signature` is the byte after the opcode, fetched and discarded (R91, R126). -/
  | brk (signature : Byte)
  | rti
  /-- One of the 105 opcode values outside the documented set (R100). -/
  | illegal (op : Byte)
  deriving DecidableEq, Repr

end Sys2Proof
end

