-- ==== Sys2Proof/Machine/State.lean ====
section
/-! DEFINITION. The state of the block (10_state.md R30 to R57), as plain data, and its value right after the first
`reset` (R57, 70_reset_and_hazards.md R300). -/

namespace Sys2Proof.Machine

/-- The six stored flags of the status byte P (R38): bits 5 and 4 have no storage. -/
structure Status where
  /-- N, bit 7: Negative (R47). -/
  n : Bool
  /-- V, bit 6: Overflow (R46). -/
  v : Bool
  /-- D, bit 3: Decimal mode (R43). -/
  d : Bool
  /-- I, bit 2: Interrupt disable (R42). -/
  i : Bool
  /-- Z, bit 1: Zero (R41). -/
  z : Bool
  /-- C, bit 0: Carry (R40). -/
  c : Bool
  deriving DecidableEq, Repr

/-- R49: inside `run`, or outside it. -/
inductive RunState where
  | running
  | halted
  deriving DecidableEq, Repr

/-- The two hardware interrupt types (R15, R256). -/
inductive IntType where
  | irq
  | nmi
  deriving DecidableEq, Repr

/-- The faults of the block (R55, R250). Safe: the spec's own. No step ENDS in one: the spec's fault is recorded in
`State.fault`, `run` returns, and the machine goes on to answer later calls (R251, R252). -/
inductive Fault where
  /-- Recorded by an illegal opcode (R245, R251): the opcode byte and the address it was fetched from. Safe. -/
  | illegalOpcode (op : Byte) (addr : Word)
  /-- Recorded by `run` before the first `reset` (R252). Safe. -/
  | notReset
  deriving DecidableEq, Repr

/-- What the model refuses. The last three are refusals of the spec itself, of calls of the host. -/
inductive Refusal where
  /-- Raised by `exec` for an instruction that has no meaning yet; no arm of this model raises it. Safe. -/
  | notModelled (mnemonic : String)
  /-- Raised by `hostReset` while `run` is executing (R19, R300, D14, U11). Safe. -/
  | resetInsideRun
  /-- Raised by `hostRun` while `run` is executing (R19, D14, U11). Safe. -/
  | runInsideRun
  /-- Raised by `construct` with PERIOD = 0 (R7, D19, U13). Safe. -/
  | periodNotPositive
  deriving DecidableEq, Repr

/-- One call the block makes of its host (R21): a bus call with its address, direction and datum, or a poll. -/
inductive Event where
  | read (addr : Word) (value : Byte)
  | write (addr : Word) (value : Byte)
  | poll (signal : PollSignal)
  deriving DecidableEq, Repr

/-- The state of one instance of the block and, after it, what its host holds and what the model records. -/
structure State where
  /-- The construction parameters (R7, R53). -/
  params : Params
  /-- The accumulator (R31). -/
  a : Byte
  /-- Index X (R32). -/
  x : Byte
  /-- Index Y (R32). -/
  y : Byte
  /-- The stack pointer S (R33). -/
  sp : Byte
  /-- The program counter (R35). -/
  pc : Word
  /-- The status register P (R37, R38). -/
  p : Status
  /-- The run state (R49). -/
  runState : RunState
  /-- The Nmi latch (R50). -/
  nmiPending : Bool
  /-- The Irq latch (R51). -/
  irqPending : Bool
  /-- The cycle budget, a signed integer without bound (R52, D29). -/
  budget : Int
  /-- The cycles of the current `run` call (R54). -/
  runCycles : Nat
  /-- The sticky fault (R55). -/
  fault : Option Fault
  /-- Whether `reset` has been called (R56). -/
  resetDone : Bool
  /-- What the last `run` call returned; none before the first return and while a call is running (R21, R266). -/
  returned : Option Nat
  /-- HOST: the bytes behind the bus (R60, D16). -/
  mem : Memory
  /-- HOST: the answers to the next bus reads, in order (R62, U7): `some b` is the answer b, whatever the memory
  holds; `none`, and every read beyond the list, is answered by the memory (D16). -/
  answers : List (Option Byte)
  /-- HOST: the answers to the next polls, in order (R17, U8). -/
  replies : List PollReply
  /-- MODEL: the bus calls made since construction; an instruction's cost is counted with it (R69, R132). -/
  busCalls : Nat
  /-- MODEL: every bus call and poll made since construction, the newest first (R21). -/
  trace : List Event
  /-- MODEL: how many free values have been drawn (assumption log 3 and 4). -/
  draws : Nat
  deriving DecidableEq, Repr

/-- The parameters of the state after reset: DESIGN CHOICE (assumption log 5), since R7 leaves each of them to the
construction. RESET_SP is the suggested 0xFD (D5) and DECIMAL_UNDOC_MODE the default Reference (D3). -/
def Params.atReset : Params :=
  { clockHz := 1000000, period := 65536, resetSp := 0xFD, decimalMode := .reference, resultMode := .nat }

/-- The machine right after its first `reset` (R57, R300). S is RESET_SP, I is 1, the latches are clear, the budget is
PERIOD, and PC is what the reset vector reads as in a memory that lists nothing. A, X, Y, C, Z, D, V and N, which the
spec leaves to a draw (D6), are 0 here: DESIGN CHOICE (assumption log 1). The two reads are those of the vector. The host
of this one state is a choice too, for the spec lets it answer anything (R18, R62): memory lists nothing (DESIGN CHOICE,
assumption log 2), no bus answers are listed, so that every run from here is on a RAM bus with no premise to say so
(DESIGN CHOICE, assumption log 18), and no poll answers are listed, so that each is a free value (assumption log 3). -/
def State.reset : State :=
  { params := Params.atReset
    a := 0, x := 0, y := 0, sp := 0xFD, pc := 0x0000
    p := { n := false, v := false, d := false, i := true, z := false, c := false }
    runState := .halted
    nmiPending := false, irqPending := false
    budget := 65536, runCycles := 0
    fault := none, resetDone := true, returned := none
    mem := [], answers := [], replies := []
    busCalls := 2
    trace := [.read 0xFFFD 0x00, .read 0xFFFC 0x00]
    draws := 0 }

/-- The three outcomes of a meaning or a step. -/
abbrev Result := Host.Outcome State Fault Refusal

end Sys2Proof.Machine
end

