-- ==== Sys2Proof/Machine/Flags.lean ====
section
/-! DEFINITION. The status byte and every flag computation (10_state.md R37 to R48, 42_arithmetic_logic.md R165 to R173,
43_shift_incdec.md R190 to R195), on values alone: no memory and no bus. -/

namespace Sys2Proof.Machine

/-- `PackP(b) = N*128 + V*64 + 32 + b*16 + D*8 + I*4 + Z*2 + C` (R38): bit 5 is 1, bit 4 is given. -/
def packP (p : Status) (b : Bool) : Byte :=
  BitVec.ofNat 8 (p.n.toNat * 128 + p.v.toNat * 64 + 32 + b.toNat * 16 + p.d.toNat * 8 + p.i.toNat * 4 + p.z.toNat * 2
    + p.c.toNat)

/-- `UnpackP(v)` (R38): bits 5 and 4 are ignored. -/
def unpackP (v : Byte) : Status :=
  { n := v.getLsbD 7, v := v.getLsbD 6, d := v.getLsbD 3, i := v.getLsbD 2, z := v.getLsbD 1, c := v.getLsbD 0 }

/-- `ZN(v)` (R11, R39): Z is 1 iff v is 0, N is bit 7 of v. -/
def Status.setZN (p : Status) (v : Byte) : Status := { p with z := v == 0#8, n := v.getLsbD 7 }

/-- What an add or subtract gives: the result byte, the carry and the overflow. -/
structure Sum where
  value : Byte
  carry : Bool
  overflow : Bool
  deriving DecidableEq, Repr

/-- `AddBin(a, b, cin)` (R165). -/
def addBin (a b : Byte) (cin : Bool) : Sum :=
  let s := a.toNat + b.toNat + cin.toNat
  let r := BitVec.ofNat 8 s
  { value := r
    carry := decide (256 ≤ s)
    overflow := (~~~(a ^^^ b) &&& (a ^^^ r) &&& 0x80#8) != 0#8 }

/-- The binary difference of SBC (R168): `AddBin(A, ~M, C)`. -/
def subBin (a m : Byte) (cin : Bool) : Sum := addBin a (~~~m) cin

/-- Both nibbles of a byte are 0..9 (R167, "valid BCD"). -/
def validBcd (b : Byte) : Bool := decide (b.toNat % 16 ≤ 9) && decide (b.toNat / 16 ≤ 9)

/-- The integer computation of R167 (`DecimalAdc`), with V the NMOS value. -/
def decimalAdd (a m : Byte) (cin : Bool) : Sum :=
  let lo0 := a.toNat % 16 + m.toNat % 16 + cin.toNat
  let lo1 := if 10 ≤ lo0 then (lo0 + 6) % 16 + 16 else lo0
  let t0 := (a.toNat - a.toNat % 16) + (m.toNat - m.toNat % 16) + lo1
  let t1 := if 0xA0 ≤ t0 then t0 + 0x60 else t0
  { value := BitVec.ofNat 8 t1
    carry := decide (0x100 ≤ t1)
    overflow := ((a ^^^ BitVec.ofNat 8 t0) &&& ~~~(a ^^^ m) &&& 0x80#8) != 0#8 }

/-- The integer computation of R169 (`DecimalSbc`): the difference byte. `mod` gives the non-negative remainder. -/
def decimalSub (a m : Byte) (cin : Bool) : Byte :=
  let lo0 : Int := (a.toNat % 16 : Nat) - (m.toNat % 16 : Nat) + cin.toNat - 1
  let lo1 : Int := if lo0 < 0 then (lo0 - 6) % 16 - 16 else lo0
  let t0 : Int := (a.toNat - a.toNat % 16 : Nat) - (m.toNat - m.toNat % 16 : Nat) + lo1
  let t1 : Int := if t0 < 0 then t0 - 0x60 else t0
  BitVec.ofInt 8 t1

/-- `Draw` of R167 and R169: V is a free draw, and where an operand is not valid BCD the result and the carry are free
draws too. `k` counts the draws made so far. -/
def drawSum (k : Nat) (a m : Byte) (documented : Sum) : Sum :=
  { value := if validBcd a && validBcd m then documented.value else Config.freeByte k
    carry := if validBcd a && validBcd m then documented.carry else Config.freeBit k
    overflow := Config.freeBit (k + 1) }

/-- The decimal sum under `DECIMAL_UNDOC_MODE` (R167). -/
def decimalAdc (mode : DecimalMode) (k : Nat) (a m : Byte) (cin : Bool) : Sum :=
  match mode with
  | .reference => decimalAdd a m cin
  | .draw => drawSum k a m (decimalAdd a m cin)

/-- The decimal difference under `DECIMAL_UNDOC_MODE` (R168, R169): the byte by `decimalSub`, the carry and V by the
binary difference. -/
def decimalSbc (mode : DecimalMode) (k : Nat) (a m : Byte) (cin : Bool) : Sum :=
  let documented : Sum := { subBin a m cin with value := decimalSub a m cin }
  match mode with
  | .reference => documented
  | .draw => drawSum k a m documented

/-- The flags after an add or subtract: C and V from it, Z and N from the byte written (R166 to R169). -/
def Status.setSum (p : Status) (r : Sum) : Status := { p.setZN r.value with c := r.carry, v := r.overflow }

/-- `Compare(r, M)` (R173): unsigned; V is unchanged. -/
def Status.compare (p : Status) (r m : Byte) : Status :=
  { p with c := decide (m.toNat ≤ r.toNat), z := r == m, n := (r - m).getLsbD 7 }

/-- BIT (R177): Z from A and M, N and V from M. -/
def Status.bitTest (p : Status) (a m : Byte) : Status :=
  { p with z := (a &&& m) == 0#8, n := m.getLsbD 7, v := m.getLsbD 6 }

/-- The function f of ASL (R190): `(M * 2) mod 256`. -/
def shiftLeft (m : Byte) : Byte := BitVec.ofNat 8 (m.toNat * 2)

/-- The function f of LSR (R191): `M div 2`. -/
def shiftRight (m : Byte) : Byte := BitVec.ofNat 8 (m.toNat / 2)

/-- The function f of ROL (R192): `((M * 2) mod 256) | C`. -/
def rotateLeft (c : Bool) (m : Byte) : Byte := BitVec.ofNat 8 (m.toNat * 2) ||| BitVec.ofNat 8 c.toNat

/-- The function f of ROR (R193): `(C * 128) | (M div 2)`. -/
def rotateRight (c : Bool) (m : Byte) : Byte := BitVec.ofNat 8 (c.toNat * 128) ||| BitVec.ofNat 8 (m.toNat / 2)

/-- The function f of INC (R194), and the new value of INX and INY: `(M + 1) mod 256`. -/
def increment (m : Byte) : Byte := BitVec.ofNat 8 (m.toNat + 1)

/-- The function f of DEC (R195), and the new value of DEX and DEY: `(M + 255) mod 256`. -/
def decrement (m : Byte) : Byte := BitVec.ofNat 8 (m.toNat + 255)

/-- The flags after a left shift or rotate of M to r (R190, R192): C is the old bit 7. -/
def Status.shiftedLeft (p : Status) (m r : Byte) : Status := { p.setZN r with c := m.getLsbD 7 }

/-- The flags after a right shift or rotate of M to r (R191, R193): C is the old bit 0. -/
def Status.shiftedRight (p : Status) (m r : Byte) : Status := { p.setZN r with c := m.getLsbD 0 }

end Sys2Proof.Machine
end

