-- ==== Sys2Proof/Machine/Ops.lean ====
section
/-! DEFINITION. The named operations over the bus, the registers and the stack (00_scope.md R10, R11), taking an
interrupt and returning from one (60_exceptions.md R270, 45_stack_flags_system.md R243, R244), and recording a fault
(R251). -/

namespace Sys2Proof.Machine

/-- A <- v (R31). -/
def State.setA (s : State) (v : Byte) : State := { s with a := v }

/-- X <- v (R32). -/
def State.setX (s : State) (v : Byte) : State := { s with x := v }

/-- Y <- v (R32). -/
def State.setY (s : State) (v : Byte) : State := { s with y := v }

/-- S <- v (R33). -/
def State.setSp (s : State) (v : Byte) : State := { s with sp := v }

/-- pc <- target (R9, R35). -/
def State.setPc (s : State) (w : Word) : State := { s with pc := w }

/-- The flags of the status register become those of `p` (R38). -/
def State.setP (s : State) (p : Status) : State := { s with p := p }

/-- The answer the host gives to the next bus read, if that is at address `a` (R62): the listed one, or the byte the
memory holds (D16). -/
def busAnswer (a : Word) (s : State) : Byte :=
  match s.answers with
  | some b :: _ => b
  | none :: _ => s.mem.read a.toNat
  | [] => s.mem.read a.toNat

/-- `MemRead(a)` (R10, R61): one bus read cycle. -/
def memRead (a : Word) (s : State) : Byte × State :=
  (busAnswer a s,
   { s with
      answers := s.answers.tail
      busCalls := s.busCalls + 1
      trace := .read a (busAnswer a s) :: s.trace })

/-- `MemWrite(a, v)` (R10, R61): one bus write cycle. -/
def memWrite (a : Word) (v : Byte) (s : State) : State :=
  { s with
    mem := s.mem.write a.toNat v
    busCalls := s.busCalls + 1
    trace := .write a v :: s.trace }

/-- `DummyRead(a)` (R10): a read whose value is discarded, with all its side effects. -/
def dummyRead (a : Word) (s : State) : State := (memRead a s).2

/-- `Fetch()` (R11): a read at PC, which then advances by 1 modulo 65536. -/
def fetch (s : State) : Byte × State :=
  ((memRead s.pc s).1, (memRead s.pc s).2.setPc (s.pc + 1#16))

/-- `Push(v)` (R11, R33): a write at 0x0100 + S, which then goes down by 1 modulo 256. -/
def push (v : Byte) (s : State) : State := (memWrite (stackAddr s.sp) v s).setSp (s.sp - 1#8)

/-- `Pull()` (R11, R33): S goes up by 1 modulo 256, then a read at 0x0100 + S. -/
def pull (s : State) : Byte × State := memRead (stackAddr (s.sp + 1#8)) (s.setSp (s.sp + 1#8))

/-- Two reads, the low byte of a 16-bit value first (R63), at the two addresses given. -/
def readPair (lowAt highAt : Word) (s : State) : Word × State :=
  let l := memRead lowAt s
  let h := memRead highAt l.2
  (joinBytes h.1 l.1, h.2)

/-- PC pushed high byte first (R64). -/
def pushPc (s : State) : State := push (lo s.pc) (push (hi s.pc) s)

/-- A 16-bit address pulled low byte first (R64). -/
def pullWord (s : State) : Word × State :=
  let l := pull s
  let h := pull l.2
  (joinBytes h.1 l.1, h.2)

/-- `I <- 1` (R42). -/
def State.disableInterrupts (s : State) : State := s.setP { s.p with i := true }

/-- TAKING AN INTERRUPT, the sequence that BRK and the two hardware interrupts share (R243, R270): push PCH, PCL and the
status byte with B = `brk`; I <- 1; load PC from the vector, low byte first. The pushed status carries the old I. -/
def takeInterrupt (brk : Bool) (vector : Word) (s : State) : State :=
  let s1 := push (packP s.p brk) (pushPc s)
  let r := readPair vector (vector + 1#16) s1.disableInterrupts
  r.2.setPc r.1

/-- RETURN FROM INTERRUPT (R244, R273): the status byte, then PCL and PCH; no +1. -/
def returnFromInterrupt (s : State) : State :=
  let st := pull s
  let w := pullWord (st.2.setP (unpackP st.1))
  w.2.setPc w.1

/-- The vectors of R71: Nmi 0xFFFA, Irq and BRK 0xFFFE. -/
def vectorOf : IntType → Word
  | .nmi => 0xFFFA
  | .irq => 0xFFFE

/-- The reset vector of R71. -/
def resetVector : Word := 0xFFFC

/-- `Entry(t)` (R270): two dummy reads at PC, then the shared sequence with B = 0. -/
def interruptEntry (t : IntType) (s : State) : State :=
  takeInterrupt false (vectorOf t) (dummyRead s.pc (dummyRead s.pc s))

/-- `Result` of R266: what `run` returns for a cycle total, under RUN_RESULT_MODE. -/
def runResult (mode : ResultMode) (cycles : Nat) : Nat :=
  match mode with
  | .nat => cycles
  | .mod65536 => cycles % 65536

/-- `run` returns with `run_cycles` and the block is Halted (R265, R266). -/
def returnFromRun (s : State) : State :=
  { s with runState := .halted, returned := some (runResult s.params.resultMode s.runCycles) }

/-- A fault inside `run` (R251): it is recorded, and `run` returns. -/
def raiseFault (f : Fault) (s : State) : State := returnFromRun { s with fault := some f }

end Sys2Proof.Machine
end

