-- ==== Sys2Proof/Machine/Operands.lean ====
section
/-! DEFINITION. The addressing-mode resolver (40_addressing_modes.md R110 to R121, R134). An instruction's bytes have been
fetched when its meaning runs: PC stands after them, and the cycles below are those that follow the fetches. -/

namespace Sys2Proof.Machine

/-- The operand classes of R110. -/
inductive Access where
  | read
  | write
  | modify
  deriving DecidableEq, Repr

/-- The correction cycle of R116 and R119: a dummy read at the uncorrected address `t`, made always by the write and
read-modify-write classes, and by the read class only where the index crosses a page (R130). -/
def correctHigh (cls : Access) (base : Word) (idx : Byte) (s : State) : State :=
  if cls = .read ∧ otherPage (base + zext16 idx) base = false then s else dummyRead (uncorrected base idx) s

/-- The effective address of a memory mode, and the bus cycles between the operand fetches and the access at it
(R113 to R116, R118, R119). WellFormed leaves izx and izy to the read and write classes. -/
def resolve (cls : Access) (m : MemMode) (s : State) : Word × State :=
  match m with
  | .zp z => (zext16 z, s)
  | .zpx b => (zext16 (b + s.x), dummyRead (zext16 b) s)
  | .zpy b => (zext16 (b + s.y), dummyRead (zext16 b) s)
  | .abs w => (w, s)
  | .absx w => (w + zext16 s.x, correctHigh cls w s.x s)
  | .absy w => (w + zext16 s.y, correctHigh cls w s.y s)
  | .izx b => readPair (zext16 (b + s.x)) (zext16 (b + s.x + 1#8)) (dummyRead (zext16 b) s)
  | .izy z =>
    let base := readPair (zext16 z) (zext16 (z + 1#8)) s
    (base.1 + zext16 s.y, correctHigh cls base.1 s.y base.2)

/-- The effective address of a memory mode (R113 to R119). It does not depend on the class. -/
def effectiveAddress (m : MemMode) (s : State) : Word := (resolve .read m s).1

/-- `M <- ReadOperand(mode)` (R134). An immediate operand was fetched with the instruction (R112). -/
def readOperand (m : ReadMode) (s : State) : Byte × State :=
  match m with
  | .imm v => (v, s)
  | .mem mm => memRead (resolve .read mm s).1 (resolve .read mm s).2

/-- `WriteOperand(mode, v)` (R134). -/
def writeOperand (m : MemMode) (v : Byte) (s : State) : State :=
  memWrite (resolve .write m s).1 v (resolve .write m s).2

/-- The last three cycles of every read-modify-write sequence (R117): read M, write M back, write f(M). It gives M. -/
def readModifyWrite (ea : Word) (f : Byte → Byte) (s : State) : Byte × State :=
  let r := memRead ea s
  (r.1, memWrite ea (f r.1) (memWrite ea r.1 r.2))

/-- `ModifyOperand(mode, f)` in a memory mode (R134). It gives M. -/
def modifyMemory (m : MemMode) (f : Byte → Byte) (s : State) : Byte × State :=
  readModifyWrite (resolve .modify m s).1 f (resolve .modify m s).2

/-- `ModifyOperand(mode, f)` (R134): in accumulator mode the dummy read of R111 and then `A <- f(A)`. It gives M. -/
def modifyOperand (m : RmwMode) (f : Byte → Byte) (s : State) : Byte × State :=
  match m with
  | .acc => (s.a, (dummyRead s.pc s).setA (f s.a))
  | .mem mm => modifyMemory mm f s

/-- The second cycle of an implied instruction (R111): a dummy read at PC, which does not advance. -/
def impliedCycle (s : State) : State := dummyRead s.pc s

/-- `Branch(cond, d)` (R121, R205): PC is `next`, the address of the instruction after the branch. -/
def branch (cond : Bool) (d : Byte) (s : State) : State :=
  if cond then
    let target := s.pc + sext16 d
    let s1 := dummyRead s.pc s
    let s2 := if otherPage target s.pc then dummyRead (joinBytes (hi s.pc) (lo target)) s1 else s1
    s2.setPc target
  else s

end Sys2Proof.Machine
end

