-- ==== Sys2Proof/Machine/Arith.lean ====
section
/-! DEFINITION. The meanings of arithmetic, logic, compare and bit test (42_arithmetic_logic.md R166 to R177). -/

namespace Sys2Proof.Machine

/-- The sum of an ADC at state `s` with operand `m` (R166, R167). -/
def adcSum (s : State) (m : Byte) : Sum :=
  if s.p.d then decimalAdc s.params.decimalMode s.draws s.a m s.p.c else addBin s.a m s.p.c

/-- The difference of an SBC at state `s` with operand `m` (R168, R169). -/
def sbcSum (s : State) (m : Byte) : Sum :=
  if s.p.d then decimalSbc s.params.decimalMode s.draws s.a m s.p.c else subBin s.a m s.p.c

/-- A decimal ADC or SBC with DECIMAL_UNDOC_MODE = Draw uses up two draws (assumption log 4). -/
def State.spendDraws (s : State) : State :=
  if s.p.d ∧ s.params.decimalMode = .draw then { s with draws := s.draws + 2 } else s

/-- The shape of ADC and SBC: A, C, V, Z and N from the sum. -/
def sumWith (sum : State → Byte → Sum) (m : ReadMode) (s : State) : State :=
  let r := readOperand m s
  (r.2.spendDraws.setA (sum s r.1).value).setP (s.p.setSum (sum s r.1))

/-- The shape of the logic operations: A from a bitwise function of A and M, Z and N from it (R170 to R172). -/
def logicWith (f : Byte → Byte → Byte) (m : ReadMode) (s : State) : State :=
  let r := readOperand m s
  (r.2.setA (f s.a r.1)).setP (s.p.setZN (f s.a r.1))

/-- The shape of the compares: flags only (R173). -/
def compareWith (reg : Byte) (m : ReadMode) (s : State) : State :=
  let r := readOperand m s
  r.2.setP (s.p.compare reg r.1)

/-- R166, R167 -/
def execAdc (m : ReadMode) (s : State) : Result := .next (sumWith adcSum m s)

/-- R168, R169 -/
def execSbc (m : ReadMode) (s : State) : Result := .next (sumWith sbcSum m s)

/-- R170 -/
def execAnd (m : ReadMode) (s : State) : Result := .next (logicWith (· &&& ·) m s)

/-- R171 -/
def execOra (m : ReadMode) (s : State) : Result := .next (logicWith (· ||| ·) m s)

/-- R172 -/
def execEor (m : ReadMode) (s : State) : Result := .next (logicWith (· ^^^ ·) m s)

/-- R174 -/
def execCmp (m : ReadMode) (s : State) : Result := .next (compareWith s.a m s)

/-- R175 -/
def execCpx (m : ReadMode) (s : State) : Result := .next (compareWith s.x m s)

/-- R176 -/
def execCpy (m : ReadMode) (s : State) : Result := .next (compareWith s.y m s)

/-- R177 -/
def execBit (m : ReadMode) (s : State) : Result :=
  let r := readOperand m s
  .next (r.2.setP (s.p.bitTest s.a r.1))

end Sys2Proof.Machine
end

