-- ==== Sys2Proof/Machine/Control.lean ====
section
/-! DEFINITION. The meanings of branches, jumps and subroutine linkage (44_control_transfer.md R205 to R222). -/

namespace Sys2Proof.Machine

/-- R206 -/
def execBcc (d : Byte) (s : State) : Result := .next (branch (!s.p.c) d s)

/-- R207 -/
def execBcs (d : Byte) (s : State) : Result := .next (branch s.p.c d s)

/-- R208 -/
def execBeq (d : Byte) (s : State) : Result := .next (branch s.p.z d s)

/-- R209 -/
def execBne (d : Byte) (s : State) : Result := .next (branch (!s.p.z) d s)

/-- R210 -/
def execBmi (d : Byte) (s : State) : Result := .next (branch s.p.n d s)

/-- R211 -/
def execBpl (d : Byte) (s : State) : Result := .next (branch (!s.p.n) d s)

/-- R212 -/
def execBvc (d : Byte) (s : State) : Result := .next (branch (!s.p.v) d s)

/-- R213 -/
def execBvs (d : Byte) (s : State) : Result := .next (branch s.p.v d s)

/-- R219, R120, R122: absolute, or indirect with the page quirk of R220. -/
def execJmp (m : JmpMode) (s : State) : Result :=
  match m with
  | .abs w => .next (s.setPc w)
  | .ind ptr => .next ((readPair ptr (nextInPage ptr) s).2.setPc (readPair ptr (nextInPage ptr) s).1)

/-- R221, R123: PC is the address of the instruction's last byte. After a dummy read of the stack it is pushed, and only
then is the target's high byte read. -/
def execJsr (target : Word) (s : State) : Result :=
  let s1 := pushPc (dummyRead (stackAddr s.sp) s)
  let h := memRead s1.pc s1
  .next (h.2.setPc (joinBytes h.1 (lo target)))

/-- R222, R124: the pulled address and one more. -/
def execRts (s : State) : Result :=
  let w := pullWord (dummyRead (stackAddr s.sp) (impliedCycle s))
  .next ((dummyRead w.1 w.2).setPc (w.1 + 1#16))

end Sys2Proof.Machine
end

