-- ==== Sys2Proof/Machine/LoadStore.lean ====
section
/-! DEFINITION. The meanings of loads, stores and register transfers (41_load_store_transfer.md R150 to R161). -/

namespace Sys2Proof.Machine

/-- A load's shape: a register write, and Z and N from the byte written (R150 to R152). -/
def loadWith (set : State → Byte → State) (m : ReadMode) (s : State) : State :=
  let r := readOperand m s
  (set r.2 r.1).setP (s.p.setZN r.1)

/-- A transfer's shape: the implied cycle, a register write, and Z and N from the byte moved (R156 to R160). -/
def transferWith (set : State → Byte → State) (v : Byte) (s : State) : State :=
  (set (impliedCycle s) v).setP (s.p.setZN v)

/-- R150 -/
def execLda (m : ReadMode) (s : State) : Result := .next (loadWith State.setA m s)

/-- R151 -/
def execLdx (m : ReadMode) (s : State) : Result := .next (loadWith State.setX m s)

/-- R152 -/
def execLdy (m : ReadMode) (s : State) : Result := .next (loadWith State.setY m s)

/-- R153 -/
def execSta (m : MemMode) (s : State) : Result := .next (writeOperand m s.a s)

/-- R154 -/
def execStx (m : MemMode) (s : State) : Result := .next (writeOperand m s.x s)

/-- R155 -/
def execSty (m : MemMode) (s : State) : Result := .next (writeOperand m s.y s)

/-- R156 -/
def execTax (s : State) : Result := .next (transferWith State.setX s.a s)

/-- R157 -/
def execTay (s : State) : Result := .next (transferWith State.setY s.a s)

/-- R158 -/
def execTxa (s : State) : Result := .next (transferWith State.setA s.x s)

/-- R159 -/
def execTya (s : State) : Result := .next (transferWith State.setA s.y s)

/-- R160 -/
def execTsx (s : State) : Result := .next (transferWith State.setX s.sp s)

/-- R161: "TXS is the one transfer that leaves N and Z unchanged." -/
def execTxs (s : State) : Result := .next ((impliedCycle s).setSp s.x)

end Sys2Proof.Machine
end

