-- ==== Sys2Proof/Machine/Shift.lean ====
section
/-! DEFINITION. The meanings of shifts, rotates, increments and decrements (43_shift_incdec.md R190 to R199). -/

namespace Sys2Proof.Machine

/-- The shape of a shift or rotate: the operand M becomes f(M), and `flags` are computed from M and f(M) after the last
write (R117). -/
def shiftWith (f : Byte → Byte) (flags : Status → Byte → Byte → Status) (m : RmwMode) (s : State) : State :=
  let r := modifyOperand m f s
  r.2.setP (flags s.p r.1 (f r.1))

/-- The shape of INC and DEC: Z and N from the byte written (R194, R195). -/
def stepMemoryWith (f : Byte → Byte) (m : MemMode) (s : State) : State :=
  let r := modifyMemory m f s
  r.2.setP (s.p.setZN (f r.1))

/-- The shape of INX, INY, DEX and DEY (R196 to R199). -/
def stepRegisterWith (set : State → Byte → State) (v : Byte) (s : State) : State :=
  (set (impliedCycle s) v).setP (s.p.setZN v)

/-- R190 -/
def execAsl (m : RmwMode) (s : State) : Result := .next (shiftWith shiftLeft Status.shiftedLeft m s)

/-- R191 -/
def execLsr (m : RmwMode) (s : State) : Result := .next (shiftWith shiftRight Status.shiftedRight m s)

/-- R192: the carry is the one before the instruction. -/
def execRol (m : RmwMode) (s : State) : Result := .next (shiftWith (rotateLeft s.p.c) Status.shiftedLeft m s)

/-- R193: the carry is the one before the instruction. -/
def execRor (m : RmwMode) (s : State) : Result := .next (shiftWith (rotateRight s.p.c) Status.shiftedRight m s)

/-- R194 -/
def execInc (m : MemMode) (s : State) : Result := .next (stepMemoryWith increment m s)

/-- R195 -/
def execDec (m : MemMode) (s : State) : Result := .next (stepMemoryWith decrement m s)

/-- R196 -/
def execInx (s : State) : Result := .next (stepRegisterWith State.setX (increment s.x) s)

/-- R197 -/
def execIny (s : State) : Result := .next (stepRegisterWith State.setY (increment s.y) s)

/-- R198 -/
def execDex (s : State) : Result := .next (stepRegisterWith State.setX (decrement s.x) s)

/-- R199 -/
def execDey (s : State) : Result := .next (stepRegisterWith State.setY (decrement s.y) s)

end Sys2Proof.Machine
end

