-- ==== Sys2Proof/Machine/System.lean ====
section
/-! DEFINITION. The meanings of the stack and flag instructions, NOP, BRK, RTI and the illegal opcodes
(45_stack_flags_system.md R230 to R245). -/

namespace Sys2Proof.Machine

/-- The cycles before a pull: the implied cycle and a dummy read of the stack (R125, R128). -/
def beforePull (s : State) : State := dummyRead (stackAddr s.sp) (impliedCycle s)

/-- R230, R127 -/
def execPha (s : State) : Result := .next (push s.a (impliedCycle s))

/-- R231, R127: the pushed byte has B = 1. -/
def execPhp (s : State) : Result := .next (push (packP s.p true) (impliedCycle s))

/-- R232, R128 -/
def execPla (s : State) : Result :=
  let r := pull (beforePull s)
  .next ((r.2.setA r.1).setP (s.p.setZN r.1))

/-- R233, R128 -/
def execPlp (s : State) : Result :=
  let r := pull (beforePull s)
  .next (r.2.setP (unpackP r.1))

/-- R234 -/
def execClc (s : State) : Result := .next ((impliedCycle s).setP { s.p with c := false })

/-- R235 -/
def execSec (s : State) : Result := .next ((impliedCycle s).setP { s.p with c := true })

/-- R236 -/
def execCli (s : State) : Result := .next ((impliedCycle s).setP { s.p with i := false })

/-- R237 -/
def execSei (s : State) : Result := .next ((impliedCycle s).setP { s.p with i := true })

/-- R238 -/
def execCld (s : State) : Result := .next ((impliedCycle s).setP { s.p with d := false })

/-- R239 -/
def execSed (s : State) : Result := .next ((impliedCycle s).setP { s.p with d := true })

/-- R240 -/
def execClv (s : State) : Result := .next ((impliedCycle s).setP { s.p with v := false })

/-- R241 -/
def execNop (s : State) : Result := .next (impliedCycle s)

/-- R243, R126: the signature byte has been fetched and is discarded; the shared interrupt sequence with B = 1 through
the Irq vector. -/
def execBrk (_signature : Byte) (s : State) : Result := .next (takeInterrupt true (vectorOf .irq) s)

/-- R244, R125 -/
def execRti (s : State) : Result := .next (returnFromInterrupt (beforePull s))

/-- R245, R251: PC goes back to the opcode's address, the fault is recorded, and `run` returns. -/
def execIllegal (op : Byte) (s : State) : Result :=
  let addr := s.pc - 1#16
  .next (raiseFault (.illegalOpcode op addr) (s.setPc addr))

end Sys2Proof.Machine
end

