-- ==== Sys2Proof/WellFormed.lean ====
section
/-! DEFINITION. Which instructions exist (30_encoding.md R97 and R100): the modes each operation takes, and the opcode
values outside the documented set. Decoding gives only well-formed instructions, and only they are encoded. -/

namespace Sys2Proof

/-- The memory modes of ADC, AND, CMP, EOR, LDA, ORA, SBC and STA (R97): all but zero page,Y. -/
def MemMode.isAlu : MemMode → Bool
  | .zp _ | .zpx _ | .abs _ | .absx _ | .absy _ | .izx _ | .izy _ => true
  | .zpy _ => false

/-- The memory modes of LDX (R97). -/
def MemMode.isLoadX : MemMode → Bool
  | .zp _ | .zpy _ | .abs _ | .absy _ => true
  | .zpx _ | .absx _ | .izx _ | .izy _ => false

/-- The memory modes of LDY, and of the shifts, rotates, INC and DEC (R97). -/
def MemMode.isByX : MemMode → Bool
  | .zp _ | .zpx _ | .abs _ | .absx _ => true
  | .zpy _ | .absy _ | .izx _ | .izy _ => false

/-- The modes of STX (R97). -/
def MemMode.isStoreX : MemMode → Bool
  | .zp _ | .zpy _ | .abs _ => true
  | .zpx _ | .absx _ | .absy _ | .izx _ | .izy _ => false

/-- The modes of STY (R97). -/
def MemMode.isStoreY : MemMode → Bool
  | .zp _ | .zpx _ | .abs _ => true
  | .zpy _ | .absx _ | .absy _ | .izx _ | .izy _ => false

/-- The memory modes of CPX, CPY and BIT (R97). -/
def MemMode.isPlain : MemMode → Bool
  | .zp _ | .abs _ => true
  | .zpx _ | .zpy _ | .absx _ | .absy _ | .izx _ | .izy _ => false

/-- A read-class operand that may be immediate, or in memory by one of the modes `ok`. -/
def ReadMode.immOr (ok : MemMode → Bool) : ReadMode → Bool
  | .imm _ => true
  | .mem m => ok m

/-- A read-class operand in memory by one of the modes `ok` (BIT has no immediate form, R177). -/
def ReadMode.memOnly (ok : MemMode → Bool) : ReadMode → Bool
  | .imm _ => false
  | .mem m => ok m

/-- A shift's operand: the accumulator, or memory by one of the modes `ok`. -/
def RmwMode.accOr (ok : MemMode → Bool) : RmwMode → Bool
  | .acc => true
  | .mem m => ok m

/-- The 105 illegal opcode values, as R100 lists them. -/
def illegalOpcodes : List Byte :=
  [0x02, 0x03, 0x04, 0x07, 0x0B, 0x0C, 0x0F, 0x12, 0x13, 0x14, 0x17, 0x1A, 0x1B, 0x1C, 0x1F] ++
  [0x22, 0x23, 0x27, 0x2B, 0x2F, 0x32, 0x33, 0x34, 0x37, 0x3A, 0x3B, 0x3C, 0x3F] ++
  [0x42, 0x43, 0x44, 0x47, 0x4B, 0x4F, 0x52, 0x53, 0x54, 0x57, 0x5A, 0x5B, 0x5C, 0x5F] ++
  [0x62, 0x63, 0x64, 0x67, 0x6B, 0x6F, 0x72, 0x73, 0x74, 0x77, 0x7A, 0x7B, 0x7C, 0x7F] ++
  [0x80, 0x82, 0x83, 0x87, 0x89, 0x8B, 0x8F, 0x92, 0x93, 0x97, 0x9B, 0x9C, 0x9E, 0x9F] ++
  [0xA3, 0xA7, 0xAB, 0xAF, 0xB2, 0xB3, 0xB7, 0xBB, 0xBF] ++
  [0xC2, 0xC3, 0xC7, 0xCB, 0xCF, 0xD2, 0xD3, 0xD4, 0xD7, 0xDA, 0xDB, 0xDC, 0xDF] ++
  [0xE2, 0xE3, 0xE7, 0xEB, 0xEF, 0xF2, 0xF3, 0xF4, 0xF7, 0xFA, 0xFB, 0xFC, 0xFF]

/-- An instruction the opcode map (R94) has a cell for. -/
def wellFormed : Instr → Bool
  | .lda m | .adc m | .sbc m | .and m | .ora m | .eor m | .cmp m => m.immOr MemMode.isAlu
  | .ldx m => m.immOr MemMode.isLoadX
  | .ldy m => m.immOr MemMode.isByX
  | .cpx m | .cpy m => m.immOr MemMode.isPlain
  | .bit m => m.memOnly MemMode.isPlain
  | .sta m => m.isAlu
  | .stx m => m.isStoreX
  | .sty m => m.isStoreY
  | .asl m | .lsr m | .rol m | .ror m => m.accOr MemMode.isByX
  | .inc m | .dec m => m.isByX
  | .illegal op => illegalOpcodes.contains op
  | .tax | .tay | .txa | .tya | .tsx | .txs
  | .inx | .iny | .dex | .dey
  | .bcc _ | .bcs _ | .beq _ | .bne _ | .bmi _ | .bpl _ | .bvc _ | .bvs _
  | .jmp _ | .jsr _ | .rts
  | .pha | .php | .pla | .plp
  | .clc | .sec | .cli | .sei | .cld | .sed | .clv
  | .nop | .brk _ | .rti => true

end Sys2Proof
end

