-- ==== Sys2Proof/Decode.lean ====
section
/-! DEFINITION. Decoding and encoding (30_encoding.md R90 to R102). The decoder is the opcode map of R94 read by opcode
value; the encoder is the same map read by mnemonic and mode, written out apart from it. -/

namespace Sys2Proof

open Sys2Proof.Machine (hi lo joinBytes)

/-- Why a list of bytes holds no whole instruction. No opcode value is a reason: "every byte value decodes" (R102). -/
inductive DecodeError where
  /-- There is no opcode byte. -/
  | noOpcode
  /-- The list ends before the instruction does. -/
  | truncated (op : Byte)
  deriving DecidableEq, Repr

/-- The instruction whose opcode byte is `op` and whose operand bytes are `b1` and `b2` (R94, R93): the opcode map in
opcode order. An operand byte that the mode does not have is not looked at. "Illegal" is the verdict on the 105 values
of R100, which are no cell of the map. -/
def decodeOp (op b1 b2 : Byte) : Instr :=
  match op.toNat with
  | 0x00 => .brk b1
  | 0x01 => .ora (.mem (.izx b1))
  | 0x05 => .ora (.mem (.zp b1))
  | 0x06 => .asl (.mem (.zp b1))
  | 0x08 => .php
  | 0x09 => .ora (.imm b1)
  | 0x0A => .asl .acc
  | 0x0D => .ora (.mem (.abs (joinBytes b2 b1)))
  | 0x0E => .asl (.mem (.abs (joinBytes b2 b1)))
  | 0x10 => .bpl b1
  | 0x11 => .ora (.mem (.izy b1))
  | 0x15 => .ora (.mem (.zpx b1))
  | 0x16 => .asl (.mem (.zpx b1))
  | 0x18 => .clc
  | 0x19 => .ora (.mem (.absy (joinBytes b2 b1)))
  | 0x1D => .ora (.mem (.absx (joinBytes b2 b1)))
  | 0x1E => .asl (.mem (.absx (joinBytes b2 b1)))
  | 0x20 => .jsr (joinBytes b2 b1)
  | 0x21 => .and (.mem (.izx b1))
  | 0x24 => .bit (.mem (.zp b1))
  | 0x25 => .and (.mem (.zp b1))
  | 0x26 => .rol (.mem (.zp b1))
  | 0x28 => .plp
  | 0x29 => .and (.imm b1)
  | 0x2A => .rol .acc
  | 0x2C => .bit (.mem (.abs (joinBytes b2 b1)))
  | 0x2D => .and (.mem (.abs (joinBytes b2 b1)))
  | 0x2E => .rol (.mem (.abs (joinBytes b2 b1)))
  | 0x30 => .bmi b1
  | 0x31 => .and (.mem (.izy b1))
  | 0x35 => .and (.mem (.zpx b1))
  | 0x36 => .rol (.mem (.zpx b1))
  | 0x38 => .sec
  | 0x39 => .and (.mem (.absy (joinBytes b2 b1)))
  | 0x3D => .and (.mem (.absx (joinBytes b2 b1)))
  | 0x3E => .rol (.mem (.absx (joinBytes b2 b1)))
  | 0x40 => .rti
  | 0x41 => .eor (.mem (.izx b1))
  | 0x45 => .eor (.mem (.zp b1))
  | 0x46 => .lsr (.mem (.zp b1))
  | 0x48 => .pha
  | 0x49 => .eor (.imm b1)
  | 0x4A => .lsr .acc
  | 0x4C => .jmp (.abs (joinBytes b2 b1))
  | 0x4D => .eor (.mem (.abs (joinBytes b2 b1)))
  | 0x4E => .lsr (.mem (.abs (joinBytes b2 b1)))
  | 0x50 => .bvc b1
  | 0x51 => .eor (.mem (.izy b1))
  | 0x55 => .eor (.mem (.zpx b1))
  | 0x56 => .lsr (.mem (.zpx b1))
  | 0x58 => .cli
  | 0x59 => .eor (.mem (.absy (joinBytes b2 b1)))
  | 0x5D => .eor (.mem (.absx (joinBytes b2 b1)))
  | 0x5E => .lsr (.mem (.absx (joinBytes b2 b1)))
  | 0x60 => .rts
  | 0x61 => .adc (.mem (.izx b1))
  | 0x65 => .adc (.mem (.zp b1))
  | 0x66 => .ror (.mem (.zp b1))
  | 0x68 => .pla
  | 0x69 => .adc (.imm b1)
  | 0x6A => .ror .acc
  | 0x6C => .jmp (.ind (joinBytes b2 b1))
  | 0x6D => .adc (.mem (.abs (joinBytes b2 b1)))
  | 0x6E => .ror (.mem (.abs (joinBytes b2 b1)))
  | 0x70 => .bvs b1
  | 0x71 => .adc (.mem (.izy b1))
  | 0x75 => .adc (.mem (.zpx b1))
  | 0x76 => .ror (.mem (.zpx b1))
  | 0x78 => .sei
  | 0x79 => .adc (.mem (.absy (joinBytes b2 b1)))
  | 0x7D => .adc (.mem (.absx (joinBytes b2 b1)))
  | 0x7E => .ror (.mem (.absx (joinBytes b2 b1)))
  | 0x81 => .sta (.izx b1)
  | 0x84 => .sty (.zp b1)
  | 0x85 => .sta (.zp b1)
  | 0x86 => .stx (.zp b1)
  | 0x88 => .dey
  | 0x8A => .txa
  | 0x8C => .sty (.abs (joinBytes b2 b1))
  | 0x8D => .sta (.abs (joinBytes b2 b1))
  | 0x8E => .stx (.abs (joinBytes b2 b1))
  | 0x90 => .bcc b1
  | 0x91 => .sta (.izy b1)
  | 0x94 => .sty (.zpx b1)
  | 0x95 => .sta (.zpx b1)
  | 0x96 => .stx (.zpy b1)
  | 0x98 => .tya
  | 0x99 => .sta (.absy (joinBytes b2 b1))
  | 0x9A => .txs
  | 0x9D => .sta (.absx (joinBytes b2 b1))
  | 0xA0 => .ldy (.imm b1)
  | 0xA1 => .lda (.mem (.izx b1))
  | 0xA2 => .ldx (.imm b1)
  | 0xA4 => .ldy (.mem (.zp b1))
  | 0xA5 => .lda (.mem (.zp b1))
  | 0xA6 => .ldx (.mem (.zp b1))
  | 0xA8 => .tay
  | 0xA9 => .lda (.imm b1)
  | 0xAA => .tax
  | 0xAC => .ldy (.mem (.abs (joinBytes b2 b1)))
  | 0xAD => .lda (.mem (.abs (joinBytes b2 b1)))
  | 0xAE => .ldx (.mem (.abs (joinBytes b2 b1)))
  | 0xB0 => .bcs b1
  | 0xB1 => .lda (.mem (.izy b1))
  | 0xB4 => .ldy (.mem (.zpx b1))
  | 0xB5 => .lda (.mem (.zpx b1))
  | 0xB6 => .ldx (.mem (.zpy b1))
  | 0xB8 => .clv
  | 0xB9 => .lda (.mem (.absy (joinBytes b2 b1)))
  | 0xBA => .tsx
  | 0xBC => .ldy (.mem (.absx (joinBytes b2 b1)))
  | 0xBD => .lda (.mem (.absx (joinBytes b2 b1)))
  | 0xBE => .ldx (.mem (.absy (joinBytes b2 b1)))
  | 0xC0 => .cpy (.imm b1)
  | 0xC1 => .cmp (.mem (.izx b1))
  | 0xC4 => .cpy (.mem (.zp b1))
  | 0xC5 => .cmp (.mem (.zp b1))
  | 0xC6 => .dec (.zp b1)
  | 0xC8 => .iny
  | 0xC9 => .cmp (.imm b1)
  | 0xCA => .dex
  | 0xCC => .cpy (.mem (.abs (joinBytes b2 b1)))
  | 0xCD => .cmp (.mem (.abs (joinBytes b2 b1)))
  | 0xCE => .dec (.abs (joinBytes b2 b1))
  | 0xD0 => .bne b1
  | 0xD1 => .cmp (.mem (.izy b1))
  | 0xD5 => .cmp (.mem (.zpx b1))
  | 0xD6 => .dec (.zpx b1)
  | 0xD8 => .cld
  | 0xD9 => .cmp (.mem (.absy (joinBytes b2 b1)))
  | 0xDD => .cmp (.mem (.absx (joinBytes b2 b1)))
  | 0xDE => .dec (.absx (joinBytes b2 b1))
  | 0xE0 => .cpx (.imm b1)
  | 0xE1 => .sbc (.mem (.izx b1))
  | 0xE4 => .cpx (.mem (.zp b1))
  | 0xE5 => .sbc (.mem (.zp b1))
  | 0xE6 => .inc (.zp b1)
  | 0xE8 => .inx
  | 0xE9 => .sbc (.imm b1)
  | 0xEA => .nop
  | 0xEC => .cpx (.mem (.abs (joinBytes b2 b1)))
  | 0xED => .sbc (.mem (.abs (joinBytes b2 b1)))
  | 0xEE => .inc (.abs (joinBytes b2 b1))
  | 0xF0 => .beq b1
  | 0xF1 => .sbc (.mem (.izy b1))
  | 0xF5 => .sbc (.mem (.zpx b1))
  | 0xF6 => .inc (.zpx b1)
  | 0xF8 => .sed
  | 0xF9 => .sbc (.mem (.absy (joinBytes b2 b1)))
  | 0xFD => .sbc (.mem (.absx (joinBytes b2 b1)))
  | 0xFE => .inc (.absx (joinBytes b2 b1))
  | _ => .illegal op

/-- Instruction lengths in bytes, by addressing mode (R91, R102). -/
def MemMode.length : MemMode → Nat
  | .zp _ | .zpx _ | .zpy _ | .izx _ | .izy _ => 2
  | .abs _ | .absx _ | .absy _ => 3

/-- R91: an immediate instruction has 2 bytes. -/
def ReadMode.length : ReadMode → Nat
  | .imm _ => 2
  | .mem m => m.length

/-- R91: an accumulator instruction has 1 byte. -/
def RmwMode.length : RmwMode → Nat
  | .acc => 1
  | .mem m => m.length

/-- The length of an instruction in bytes (R91, R102): 1 for implied, accumulator and illegal, 2 for BRK and every
one-byte operand, 3 for abs, absx, absy, ind and JSR. -/
def Instr.length : Instr → Nat
  | .lda m | .ldx m | .ldy m | .adc m | .sbc m | .and m | .ora m | .eor m | .cmp m | .cpx m | .cpy m | .bit m => m.length
  | .sta m | .stx m | .sty m | .inc m | .dec m => m.length
  | .asl m | .lsr m | .rol m | .ror m => m.length
  | .bcc _ | .bcs _ | .beq _ | .bne _ | .bmi _ | .bpl _ | .bvc _ | .bvs _ | .brk _ => 2
  | .jmp _ | .jsr _ => 3
  | .tax | .tay | .txa | .tya | .tsx | .txs | .inx | .iny | .dex | .dey
  | .rts | .rti | .pha | .php | .pla | .plp
  | .clc | .sec | .cli | .sei | .cld | .sed | .clv | .nop | .illegal _ => 1

/-- How many bytes an opcode's instruction has: R102, "takes its length from the row". -/
def lengthOf (op : Byte) : Nat := (decodeOp op 0 0).length

/-- Decoding a list of bytes, total: the instruction at its head and the bytes after it, or the reason it is none. -/
def decode : List Byte → Except DecodeError (Instr × List Byte)
  | [] => .error .noOpcode
  | op :: rest =>
    match lengthOf op, rest with
    | 1, _ => .ok (decodeOp op 0 0, rest)
    | 2, b1 :: rest' => .ok (decodeOp op b1 0, rest')
    | 3, b1 :: b2 :: rest' => .ok (decodeOp op b1 b2, rest')
    | _, _ => .error (.truncated op)

/-- The opcode byte of an instruction: the cells of R94 by mnemonic and mode (the operand lines of rules R150 to R244).
`none` for a mode the operation does not take (R97). An illegal instruction is its own opcode byte. -/
def opcode : Instr → Option Byte
  | .lda (.mem (.izx _)) => some 0xA1
  | .lda (.mem (.zp _)) => some 0xA5
  | .lda (.imm _) => some 0xA9
  | .lda (.mem (.abs _)) => some 0xAD
  | .lda (.mem (.izy _)) => some 0xB1
  | .lda (.mem (.zpx _)) => some 0xB5
  | .lda (.mem (.absy _)) => some 0xB9
  | .lda (.mem (.absx _)) => some 0xBD
  | .lda (.mem (.zpy _)) => none
  | .ldx (.imm _) => some 0xA2
  | .ldx (.mem (.zp _)) => some 0xA6
  | .ldx (.mem (.abs _)) => some 0xAE
  | .ldx (.mem (.zpy _)) => some 0xB6
  | .ldx (.mem (.absy _)) => some 0xBE
  | .ldx (.mem (.zpx _)) | .ldx (.mem (.absx _)) | .ldx (.mem (.izx _)) | .ldx (.mem (.izy _)) => none
  | .ldy (.imm _) => some 0xA0
  | .ldy (.mem (.zp _)) => some 0xA4
  | .ldy (.mem (.abs _)) => some 0xAC
  | .ldy (.mem (.zpx _)) => some 0xB4
  | .ldy (.mem (.absx _)) => some 0xBC
  | .ldy (.mem (.zpy _)) | .ldy (.mem (.absy _)) | .ldy (.mem (.izx _)) | .ldy (.mem (.izy _)) => none
  | .sta (.izx _) => some 0x81
  | .sta (.zp _) => some 0x85
  | .sta (.abs _) => some 0x8D
  | .sta (.izy _) => some 0x91
  | .sta (.zpx _) => some 0x95
  | .sta (.absy _) => some 0x99
  | .sta (.absx _) => some 0x9D
  | .sta (.zpy _) => none
  | .stx (.zp _) => some 0x86
  | .stx (.abs _) => some 0x8E
  | .stx (.zpy _) => some 0x96
  | .stx (.zpx _) | .stx (.absx _) | .stx (.absy _) | .stx (.izx _) | .stx (.izy _) => none
  | .sty (.zp _) => some 0x84
  | .sty (.abs _) => some 0x8C
  | .sty (.zpx _) => some 0x94
  | .sty (.zpy _) | .sty (.absx _) | .sty (.absy _) | .sty (.izx _) | .sty (.izy _) => none
  | .tax => some 0xAA
  | .tay => some 0xA8
  | .txa => some 0x8A
  | .tya => some 0x98
  | .tsx => some 0xBA
  | .txs => some 0x9A
  | .adc (.mem (.izx _)) => some 0x61
  | .adc (.mem (.zp _)) => some 0x65
  | .adc (.imm _) => some 0x69
  | .adc (.mem (.abs _)) => some 0x6D
  | .adc (.mem (.izy _)) => some 0x71
  | .adc (.mem (.zpx _)) => some 0x75
  | .adc (.mem (.absy _)) => some 0x79
  | .adc (.mem (.absx _)) => some 0x7D
  | .adc (.mem (.zpy _)) => none
  | .sbc (.mem (.izx _)) => some 0xE1
  | .sbc (.mem (.zp _)) => some 0xE5
  | .sbc (.imm _) => some 0xE9
  | .sbc (.mem (.abs _)) => some 0xED
  | .sbc (.mem (.izy _)) => some 0xF1
  | .sbc (.mem (.zpx _)) => some 0xF5
  | .sbc (.mem (.absy _)) => some 0xF9
  | .sbc (.mem (.absx _)) => some 0xFD
  | .sbc (.mem (.zpy _)) => none
  | .and (.mem (.izx _)) => some 0x21
  | .and (.mem (.zp _)) => some 0x25
  | .and (.imm _) => some 0x29
  | .and (.mem (.abs _)) => some 0x2D
  | .and (.mem (.izy _)) => some 0x31
  | .and (.mem (.zpx _)) => some 0x35
  | .and (.mem (.absy _)) => some 0x39
  | .and (.mem (.absx _)) => some 0x3D
  | .and (.mem (.zpy _)) => none
  | .ora (.mem (.izx _)) => some 0x01
  | .ora (.mem (.zp _)) => some 0x05
  | .ora (.imm _) => some 0x09
  | .ora (.mem (.abs _)) => some 0x0D
  | .ora (.mem (.izy _)) => some 0x11
  | .ora (.mem (.zpx _)) => some 0x15
  | .ora (.mem (.absy _)) => some 0x19
  | .ora (.mem (.absx _)) => some 0x1D
  | .ora (.mem (.zpy _)) => none
  | .eor (.mem (.izx _)) => some 0x41
  | .eor (.mem (.zp _)) => some 0x45
  | .eor (.imm _) => some 0x49
  | .eor (.mem (.abs _)) => some 0x4D
  | .eor (.mem (.izy _)) => some 0x51
  | .eor (.mem (.zpx _)) => some 0x55
  | .eor (.mem (.absy _)) => some 0x59
  | .eor (.mem (.absx _)) => some 0x5D
  | .eor (.mem (.zpy _)) => none
  | .cmp (.mem (.izx _)) => some 0xC1
  | .cmp (.mem (.zp _)) => some 0xC5
  | .cmp (.imm _) => some 0xC9
  | .cmp (.mem (.abs _)) => some 0xCD
  | .cmp (.mem (.izy _)) => some 0xD1
  | .cmp (.mem (.zpx _)) => some 0xD5
  | .cmp (.mem (.absy _)) => some 0xD9
  | .cmp (.mem (.absx _)) => some 0xDD
  | .cmp (.mem (.zpy _)) => none
  | .cpx (.imm _) => some 0xE0
  | .cpx (.mem (.zp _)) => some 0xE4
  | .cpx (.mem (.abs _)) => some 0xEC
  | .cpx (.mem (.zpx _)) | .cpx (.mem (.zpy _)) | .cpx (.mem (.absx _)) | .cpx (.mem (.absy _))
  | .cpx (.mem (.izx _)) | .cpx (.mem (.izy _)) => none
  | .cpy (.imm _) => some 0xC0
  | .cpy (.mem (.zp _)) => some 0xC4
  | .cpy (.mem (.abs _)) => some 0xCC
  | .cpy (.mem (.zpx _)) | .cpy (.mem (.zpy _)) | .cpy (.mem (.absx _)) | .cpy (.mem (.absy _))
  | .cpy (.mem (.izx _)) | .cpy (.mem (.izy _)) => none
  | .bit (.mem (.zp _)) => some 0x24
  | .bit (.mem (.abs _)) => some 0x2C
  | .bit (.imm _) | .bit (.mem (.zpx _)) | .bit (.mem (.zpy _)) | .bit (.mem (.absx _))
  | .bit (.mem (.absy _)) | .bit (.mem (.izx _)) | .bit (.mem (.izy _)) => none
  | .asl (.mem (.zp _)) => some 0x06
  | .asl .acc => some 0x0A
  | .asl (.mem (.abs _)) => some 0x0E
  | .asl (.mem (.zpx _)) => some 0x16
  | .asl (.mem (.absx _)) => some 0x1E
  | .asl (.mem (.zpy _)) | .asl (.mem (.absy _)) | .asl (.mem (.izx _)) | .asl (.mem (.izy _)) => none
  | .lsr (.mem (.zp _)) => some 0x46
  | .lsr .acc => some 0x4A
  | .lsr (.mem (.abs _)) => some 0x4E
  | .lsr (.mem (.zpx _)) => some 0x56
  | .lsr (.mem (.absx _)) => some 0x5E
  | .lsr (.mem (.zpy _)) | .lsr (.mem (.absy _)) | .lsr (.mem (.izx _)) | .lsr (.mem (.izy _)) => none
  | .rol (.mem (.zp _)) => some 0x26
  | .rol .acc => some 0x2A
  | .rol (.mem (.abs _)) => some 0x2E
  | .rol (.mem (.zpx _)) => some 0x36
  | .rol (.mem (.absx _)) => some 0x3E
  | .rol (.mem (.zpy _)) | .rol (.mem (.absy _)) | .rol (.mem (.izx _)) | .rol (.mem (.izy _)) => none
  | .ror (.mem (.zp _)) => some 0x66
  | .ror .acc => some 0x6A
  | .ror (.mem (.abs _)) => some 0x6E
  | .ror (.mem (.zpx _)) => some 0x76
  | .ror (.mem (.absx _)) => some 0x7E
  | .ror (.mem (.zpy _)) | .ror (.mem (.absy _)) | .ror (.mem (.izx _)) | .ror (.mem (.izy _)) => none
  | .inc (.zp _) => some 0xE6
  | .inc (.abs _) => some 0xEE
  | .inc (.zpx _) => some 0xF6
  | .inc (.absx _) => some 0xFE
  | .inc (.zpy _) | .inc (.absy _) | .inc (.izx _) | .inc (.izy _) => none
  | .dec (.zp _) => some 0xC6
  | .dec (.abs _) => some 0xCE
  | .dec (.zpx _) => some 0xD6
  | .dec (.absx _) => some 0xDE
  | .dec (.zpy _) | .dec (.absy _) | .dec (.izx _) | .dec (.izy _) => none
  | .inx => some 0xE8
  | .iny => some 0xC8
  | .dex => some 0xCA
  | .dey => some 0x88
  | .bcc _ => some 0x90
  | .bcs _ => some 0xB0
  | .beq _ => some 0xF0
  | .bne _ => some 0xD0
  | .bmi _ => some 0x30
  | .bpl _ => some 0x10
  | .bvc _ => some 0x50
  | .bvs _ => some 0x70
  | .jmp (.abs _) => some 0x4C
  | .jmp (.ind _) => some 0x6C
  | .jsr _ => some 0x20
  | .rts => some 0x60
  | .pha => some 0x48
  | .php => some 0x08
  | .pla => some 0x68
  | .plp => some 0x28
  | .clc => some 0x18
  | .sec => some 0x38
  | .cli => some 0x58
  | .sei => some 0x78
  | .cld => some 0xD8
  | .sed => some 0xF8
  | .clv => some 0xB8
  | .nop => some 0xEA
  | .brk _ => some 0x00
  | .rti => some 0x40
  | .illegal op => some op

/-- The operand bytes a memory mode puts after the opcode, in order (R91): "address low" before "address high". -/
def MemMode.operandBytes : MemMode → List Byte
  | .zp z | .zpx z | .zpy z | .izx z | .izy z => [z]
  | .abs w | .absx w | .absy w => [lo w, hi w]

/-- R91: an immediate operand is the byte after the opcode. -/
def ReadMode.operandBytes : ReadMode → List Byte
  | .imm v => [v]
  | .mem m => m.operandBytes

/-- R91: an accumulator instruction has no operand byte. -/
def RmwMode.operandBytes : RmwMode → List Byte
  | .acc => []
  | .mem m => m.operandBytes

/-- R91: both forms of JMP hold a 16-bit value, low byte first. -/
def JmpMode.operandBytes : JmpMode → List Byte
  | .abs w | .ind w => [lo w, hi w]

/-- The bytes after the opcode (R91, R93). -/
def Instr.operandBytes : Instr → List Byte
  | .lda m | .ldx m | .ldy m | .adc m | .sbc m | .and m | .ora m | .eor m | .cmp m | .cpx m | .cpy m | .bit m => m.operandBytes
  | .sta m | .stx m | .sty m | .inc m | .dec m => m.operandBytes
  | .asl m | .lsr m | .rol m | .ror m => m.operandBytes
  | .bcc d | .bcs d | .beq d | .bne d | .bmi d | .bpl d | .bvc d | .bvs d => [d]
  | .brk b => [b]
  | .jmp m => m.operandBytes
  | .jsr w => [lo w, hi w]
  | .tax | .tay | .txa | .tya | .tsx | .txs | .inx | .iny | .dex | .dey
  | .rts | .rti | .pha | .php | .pla | .plp
  | .clc | .sec | .cli | .sei | .cld | .sed | .clv | .nop | .illegal _ => []

/-- The bytes of an instruction (R90): the opcode byte and then its operand bytes; `none` where it is not well formed. -/
def encode (i : Instr) : Option (List Byte) :=
  if wellFormed i then (opcode i).map (· :: i.operandBytes) else none

/-- The three bytes of a table word (spec/opcode_table.json): the first byte is bits 7..0, the later bytes count on
from it, and every bit from bit `nbits` on is 0. -/
def tableBytes (nbits w : Nat) : List Byte :=
  let v := w % 2 ^ nbits
  [BitVec.ofNat 8 v, BitVec.ofNat 8 (v / 256), BitVec.ofNat 8 (v / 65536)]

/-- The instruction the decoder reads from a table word. -/
def decodeTableWord (nbits w : Nat) : Option Instr :=
  match decode (tableBytes nbits w) with
  | .ok (i, _) => some i
  | .error _ => none

end Sys2Proof
end

