-- ==== Sys2Proof/Machine/Scheduler.lean ====
section
/-! DEFINITION. The `run` loop around an instruction (60_exceptions.md R251, R252, R260 to R267) and the fetch of an
instruction's bytes (40_addressing_modes.md R129). -/

namespace Sys2Proof.Machine

/-- The entry of `run` (R267): nothing to do inside `run`; otherwise the call that begins. It returns at once with 0
before the first `reset` (R252) and while a fault stands (R251). -/
def enterRun (s : State) : State :=
  if s.runState = .running then s
  else if s.resetDone = false then { s with fault := some .notReset, returned := some 0 }
  else if s.fault.isSome then { s with returned := some 0 }
  else { s with runState := .running, runCycles := 0, returned := none }

/-- How many operand bytes are fetched before the meaning of the opcode's instruction runs: all of them (R90, R102), but
JSR's target high byte is read only after the pushes (R123). -/
def operandFetches (op : Byte) : Nat := if op = 0x20#8 then 1 else lengthOf op - 1

/-- An instruction fetched through the bus: the opcode at PC and the operand bytes after it, one bus read each (R129,
R102). For JSR the third byte is only looked at, since its bus read comes later. -/
def fetchInstr (s : State) : Instr × State :=
  let op := fetch s
  match operandFetches op.1 with
  | 0 => (decodeOp op.1 0 0, op.2)
  | 1 =>
    let b1 := fetch op.2
    (decodeOp op.1 b1.1 (if op.1 = 0x20#8 then busAnswer b1.2.pc b1.2 else 0), b1.2)
  | _ =>
    let b1 := fetch op.2
    let b2 := fetch b1.2
    (decodeOp op.1 b1.1 b2.1, b2.2)

/-- R261: a cost is added to the run total and taken from the budget. -/
def charge (cost : Nat) (s : State) : State :=
  { s with runCycles := s.runCycles + cost, budget := s.budget - cost }

/-- The cost of an interrupt entry (R261, R270). -/
def entryCost : Nat := 7

/-- An interrupt entry, charged (R261, R270). -/
def chargedEntry (t : IntType) (s : State) : State := charge entryCost (interruptEntry t s)

/-- The reply the host gives to the next poll (R17): the listed one, or a free value (U8). -/
def nextReply (s : State) : PollReply :=
  match s.replies with
  | r :: _ => r
  | [] => Config.freeReply s.draws

/-- `Poll()` (R12, R262): the call is recorded, and the latches the host set from inside it are set when it returns
(R258, R263). -/
def poll (s : State) : PollSignal × State :=
  let r := nextReply s
  (r.signal,
   { s with
      replies := s.replies.tail
      draws := if s.replies.isEmpty then s.draws + 1 else s.draws
      irqPending := s.irqPending || r.raisesIrq
      nmiPending := s.nmiPending || r.raisesNmi
      trace := .poll r.signal :: s.trace })

/-- An Irq request at a check point (R263): the latch is consumed; it is serviced if I = 0 and dropped if I = 1. -/
def serviceIrq (s : State) : State :=
  if s.p.i then { s with irqPending := false } else chargedEntry .irq { s with irqPending := false }

/-- What is done with a poll's answer (R263, R265). -/
def actOnSignal (h : PollSignal) (s : State) : State :=
  match h with
  | .quit => returnFromRun s
  | .nmi => { chargedEntry .nmi s with irqPending := false }
  | .irq => serviceIrq s
  | .cont => if s.irqPending then serviceIrq s else s

/-- The check point of R262: with the budget spent, it is set to PERIOD and the host is polled. -/
def checkPoint (s : State) : State :=
  if s.budget ≤ 0 then
    let r := poll { s with budget := s.params.period }
    actOnSignal r.1 r.2
  else s

/-- The end of a step that began with `calls` bus calls made (R261, R262): its cost is the number of bus calls it made
(R132), and a check point may follow. -/
def finishStep (calls : Nat) (s : State) : State := checkPoint (charge (s.busCalls - calls) s)

/-- Nmi service in place of an instruction (R260): the latch is cleared and the entry made. -/
def nmiStep (s : State) : State := finishStep s.busCalls (interruptEntry .nmi { s with nmiPending := false })

/-- What follows an instruction: one that ended `run` by a fault is not charged (R251, D31). -/
def afterInstruction (calls : Nat) (t : State) : State :=
  if t.runState = .halted then t else finishStep calls t

end Sys2Proof.Machine
end

