-- ==== Sys2Proof/Machine/HostOps.lean ====
section
/-! DEFINITION. What the host does to an instance (00_scope.md R7, R15, R19): construct it, and the three control
operations `reset`, `interupt` and `run`. A step of the machine (Step.lean) is one turn of the loop inside `run`. -/

namespace Sys2Proof.Machine

/-- The values of the registers that `reset` leaves to a draw (R57, R300, D6). -/
structure Drawn where
  a : Byte
  x : Byte
  y : Byte
  /-- Its I is not used: `reset` sets I. -/
  p : Status
  deriving DecidableEq, Repr

/-- The three host functions a block is constructed with (R7, R16 to R18), as data. Their answers are free inputs: any list
of answers to bus reads (`BusRead`) and of poll replies (`Poll`) is a host, and a run of any length is answered from a
list as long as it. Past the lists a read is answered by the memory and a poll by a free value (assumption log 3, 7).
`BusWrite` answers nothing; a write changes `mem` (assumption log 8). -/
structure Callbacks where
  /-- The bytes behind the bus before the first write. -/
  mem : Memory
  /-- The answers to bus reads in order, as in `State.answers`. -/
  answers : List (Option Byte)
  /-- The answers to polls in order. -/
  replies : List PollReply
  deriving DecidableEq, Repr

/-- A host whose bus is plain RAM (D16) with the image `m`, and whose poll answers are all free. -/
def Callbacks.ram (m : Memory) : Callbacks := { mem := m, answers := [], replies := [] }

/-- The block right after construction (R57) over the host functions `host`. PERIOD must be at least 1 (D19). The
registers are undefined until `reset` (R56); the zeros that stand there are read by nothing, since `run` faults first
(R252) and the first `reset` writes them all. -/
def construct (params : Params) (host : Callbacks) : Result :=
  if params.period = 0 then .refused .periodNotPositive
  else .next
    { params := params
      a := 0, x := 0, y := 0, sp := 0, pc := 0
      p := { n := false, v := false, d := false, i := false, z := false, c := false }
      runState := .halted
      nmiPending := false, irqPending := false
      budget := params.period, runCycles := 0
      fault := none, resetDone := false, returned := none
      mem := host.mem, answers := host.answers, replies := host.replies
      busCalls := 0, trace := [], draws := 0 }

/-- The registers of a first reset take the drawn values; a later reset leaves them (R300, R303). -/
def State.drawRegisters (v : Drawn) (s : State) : State :=
  if s.resetDone then s else { s with a := v.a, x := v.x, y := v.y, p := v.p }

/-- `reset()` (R300): I <- 1, PC from the reset vector, S <- RESET_SP, the latches cleared, the budget PERIOD. `v` is
the draw. Refused inside `run` (D14). -/
def hostReset (v : Drawn) (s : State) : Result :=
  if s.runState = .running then .refused .resetInsideRun
  else
    let s1 := (s.drawRegisters v).disableInterrupts
    let w := readPair resetVector (resetVector + 1#16) s1
    .next
      { w.2.setPc w.1 with
        sp := s.params.resetSp
        nmiPending := false
        irqPending := false
        budget := s.params.period
        resetDone := true }

/-- `interupt(type)` (R258): it sets the latch of its type and does nothing else. -/
def interupt (t : IntType) (s : State) : State :=
  match t with
  | .nmi => { s with nmiPending := true }
  | .irq => { s with irqPending := true }

/-- The call of `run()` up to its loop (R267). Refused inside `run` (D14). -/
def hostRun (s : State) : Result :=
  if s.runState = .running then .refused .runInsideRun else .next (enterRun s)

end Sys2Proof.Machine
end

