-- ==== Sys2Proof/Machine/Step.lean ====
section
/-! DEFINITION. One step of the machine: one turn of the loop inside `run` (60_exceptions.md R261, R267), which is one
instruction or one Nmi entry, its charge and the check point after it. -/

namespace Sys2Proof.Machine

/-- One turn of the `run` loop. From Halted the host calls `run` first (assumption log 6): that call returns at once
where R251 and R252 say so, and otherwise the turn is its first. A set Nmi latch is served in place of an instruction
(R260). -/
def step (s : State) : Host.Outcome State Fault Refusal :=
  let s1 := enterRun s
  if s1.runState = .halted then .next s1
  else if s1.nmiPending then .next (nmiStep s1)
  else
    match exec (fetchInstr s1).1 (fetchInstr s1).2 with
    | .next t => .next (afterInstruction s1.busCalls t)
    | .fault r => .fault r
    | .refused r => .refused r

/-- Bytes stored one after another from `start` on, addresses modulo 65536 (R90). -/
def storeBytes (start : Word) : List Byte → Memory → Memory
  | [], m => m
  | b :: rest, m => storeBytes (start + 1#16) rest (Memory.write m start.toNat b)

/-- `s` with the instruction of a table word stored where the next step fetches it: its bytes at PC, no scripted answer
before the memory's, no Nmi pending, and a block that has been reset and stands in no fault (assumption log 6). -/
def State.withFetchWord (s : State) (nbits w : Nat) : State :=
  { s with
    mem := storeBytes s.pc (tableBytes nbits w) s.mem
    answers := []
    nmiPending := false
    resetDone := true
    fault := none }

end Sys2Proof.Machine
end

