-- ==== Sys2Proof/Safety.lean ====
section
/-! DEFINITION. The terms the claims are stated in: what a bus access leaves alone, the invariant of a run, and the cycle
counts of the opcode map, written out apart from the machine that counts its bus calls. -/

namespace Sys2Proof

open Sys2Proof.Machine (hi zext16 readPair)

/-- The base cycles of a read-class operand by mode (R94, R131). -/
def ReadMode.cycles : ReadMode → Nat
  | .imm _ => 2
  | .mem (.zp _) => 3
  | .mem (.zpx _) | .mem (.zpy _) | .mem (.abs _) | .mem (.absx _) | .mem (.absy _) => 4
  | .mem (.izy _) => 5
  | .mem (.izx _) => 6

/-- The cycles of a write-class operand by mode (R94, R131). -/
def MemMode.writeCycles : MemMode → Nat
  | .zp _ => 3
  | .zpx _ | .zpy _ | .abs _ => 4
  | .absx _ | .absy _ => 5
  | .izx _ | .izy _ => 6

/-- The cycles of a read-modify-write operand in memory by mode (R94, R131); no operation takes the last two (R118). -/
def MemMode.modifyCycles : MemMode → Nat
  | .zp _ => 5
  | .zpx _ | .zpy _ | .abs _ => 6
  | .absx _ | .absy _ => 7
  | .izx _ | .izy _ => 8

/-- The cycles of a shift by mode (R94, R131). -/
def RmwMode.cycles : RmwMode → Nat
  | .acc => 2
  | .mem m => m.modifyCycles

/-- The base cycle count of an instruction (R94, `base_cycles` of spec/opcode_table.json); an illegal one has none. -/
def baseCycles : Instr → Nat
  | .lda m | .ldx m | .ldy m | .adc m | .sbc m | .and m | .ora m | .eor m | .cmp m | .cpx m | .cpy m | .bit m => m.cycles
  | .sta m | .stx m | .sty m => m.writeCycles
  | .asl m | .lsr m | .rol m | .ror m => m.cycles
  | .inc m | .dec m => m.modifyCycles
  | .tax | .tay | .txa | .tya | .tsx | .txs | .inx | .iny | .dex | .dey => 2
  | .clc | .sec | .cli | .sei | .cld | .sed | .clv | .nop => 2
  | .bcc _ | .bcs _ | .beq _ | .bne _ | .bmi _ | .bpl _ | .bvc _ | .bvs _ => 2
  | .jmp (.abs _) => 3
  | .jmp (.ind _) => 5
  | .jsr _ | .rts | .rti => 6
  | .pha | .php => 3
  | .pla | .plp => 4
  | .brk _ => 7
  | .illegal _ => 0

/-- The extra cycle of a read-class operand whose indexed address crosses a page (R130, R132). -/
def ReadMode.crossing (m : ReadMode) (s : Machine.State) : Nat :=
  match m with
  | .mem (.absx w) => if hi (w + zext16 s.x) = hi w then 0 else 1
  | .mem (.absy w) => if hi (w + zext16 s.y) = hi w then 0 else 1
  | .mem (.izy z) =>
    let base := (readPair (zext16 z) (zext16 (z + 1#8)) s).1
    if hi (base + zext16 s.y) = hi base then 0 else 1
  | .imm _ | .mem (.zp _) | .mem (.zpx _) | .mem (.zpy _) | .mem (.abs _) | .mem (.izx _) => 0

/-- An instruction that is not one of the 105 illegal opcodes (R100). -/
def Instr.documented : Instr → Bool
  | .illegal _ => false
  | _ => true

end Sys2Proof

namespace Sys2Proof.Machine

/-- `t` is `s` but for what reading the bus uses up and records: the host's listed answers, the count of bus calls and
the trace. Every register, flag and latch and all of memory are as in `s`. -/
def BusOnly (s t : State) : Prop :=
  t = { s with answers := t.answers, busCalls := t.busCalls, trace := t.trace }

/-- `t` is `s` but for memory and what bus accesses use up and record. -/
def MemoryOnly (s t : State) : Prop :=
  t = { s with mem := t.mem, answers := t.answers, busCalls := t.busCalls, trace := t.trace }

/-- The byte the memory behind the bus holds at an address. -/
def State.peek (s : State) (a : Word) : Byte := s.mem.read a.toNat

/-- D16: every bus read from here on is answered by the memory. -/
def State.RamBus (s : State) : Prop := s.answers = []

/-- Whether an event is a bus call (R21: the other calls are polls). -/
def Event.isBusCall : Event → Bool
  | .read _ _ | .write _ _ => true
  | .poll _ => false

/-- The bus calls of a trace. -/
def busCallsIn (trace : List Event) : Nat := (trace.filter Event.isBusCall).length

/-- What every step keeps. Memory is in canonical form; PERIOD is at least 1 (D19); inside `run` the block has been
reset and stands in no fault (R251, R252); between two steps the budget lies between min(1, PERIOD - 7) and PERIOD
(R52, R262: a spent budget is replenished before the next step, less one entry's cost); the value `run` returned fits
RUN_RESULT_MODE (R266). -/
structure RunInv (s : State) : Prop where
  mem_wf : Memory.wf s.mem = true
  period_pos : 1 ≤ s.params.period
  running_ready : s.runState = .running → s.resetDone = true ∧ s.fault = none
  budget_low : min 1 ((s.params.period : Int) - 7) ≤ s.budget
  budget_high : s.budget ≤ s.params.period
  returned_fits : s.params.resultMode = .mod65536 → ∀ r, s.returned = some r → r < 65536

/-- The extra cycles of a branch: 1 if taken, 1 more if the target is on another page than the next instruction, whose
address is PC (R132). -/
def branchExtra (taken : Bool) (d : Byte) (s : State) : Nat :=
  if taken then (if hi (s.pc + sext16 d) = hi s.pc then 1 else 2) else 0

/-- The extra cycles of an instruction in a state (R132). -/
def extraCycles (i : Instr) (s : State) : Nat :=
  match i with
  | .lda m | .ldx m | .ldy m | .adc m | .sbc m | .and m | .ora m | .eor m | .cmp m | .cpx m | .cpy m | .bit m => m.crossing s
  | .bcc d => branchExtra (!s.p.c) d s
  | .bcs d => branchExtra s.p.c d s
  | .beq d => branchExtra s.p.z d s
  | .bne d => branchExtra (!s.p.z) d s
  | .bmi d => branchExtra s.p.n d s
  | .bpl d => branchExtra (!s.p.n) d s
  | .bvc d => branchExtra (!s.p.v) d s
  | .bvs d => branchExtra s.p.v d s
  | .sta _ | .stx _ | .sty _ | .asl _ | .lsr _ | .rol _ | .ror _ | .inc _ | .dec _
  | .tax | .tay | .txa | .tya | .tsx | .txs | .inx | .iny | .dex | .dey
  | .jmp _ | .jsr _ | .rts | .rti | .brk _ | .pha | .php | .pla | .plp
  | .clc | .sec | .cli | .sei | .cld | .sed | .clv | .nop | .illegal _ => 0

/-- How many of an instruction's bytes are fetched before its meaning runs: all of them, but JSR's target high byte is
read by the meaning (R123). -/
def fetchedBytes : Instr → Nat
  | .jsr _ => 2
  | i => i.length

/-- The state after the next `n` bytes at PC have been fetched. -/
def afterFetches : Nat → State → State
  | 0, s => s
  | n + 1, s => afterFetches n (fetch s).2

/-- R62: the host's answer to a read at `a` when `n` reads have been made since `s` and no write: its listed answer, or
the byte the memory holds (D16). -/
def State.answerAfter (s : State) (n : Nat) (a : Word) : Byte := s.answers[n]?.join.getD (s.peek a)

/-- The base address of (zp),Y (R119): the two bytes the bus answers at the zero-page pointer, low byte first. -/
def izyBase (z : Byte) (s : State) : Word :=
  joinBytes (s.answerAfter 1 (zext16 (z + 1#8))) (s.answerAfter 0 (zext16 z))

/-- The effective address of each mode as R113 to R119 give it. A pointer is the pair of bytes the bus answers: for izx
the second and third read of the sequence, for izy the first and second. -/
def modeAddress (m : MemMode) (s : State) : Word :=
  match m with
  | .zp z => zext16 z
  | .zpx b => zext16 (b + s.x)
  | .zpy b => zext16 (b + s.y)
  | .abs w => w
  | .absx w => w + zext16 s.x
  | .absy w => w + zext16 s.y
  | .izx b => joinBytes (s.answerAfter 2 (zext16 (b + s.x + 1#8))) (s.answerAfter 1 (zext16 (b + s.x)))
  | .izy z => izyBase z s + zext16 s.y

/-- The read cycle at `a` that follows `n` reads since `s`, as the trace records it. -/
def State.readEvent (s : State) (n : Nat) (a : Word) : Event := .read a (s.answerAfter n a)

/-- The correction cycle of R116 and R119, after `n` reads: a dummy read at `t`; the read class makes it only where
`lo + idx >= 256`. -/
def correctionEvents (cls : Access) (base : Word) (idx : Byte) (n : Nat) (s : State) : List Event :=
  if cls = .read ∧ (lo base).toNat + idx.toNat < 256 then [] else [s.readEvent n (joinBytes (hi base) (lo base + idx))]

/-- The bus cycles of each mode between the operand fetches and the access at the effective address (R113 to R119), all
of them reads, the newest first. -/
def addressEvents (cls : Access) (m : MemMode) (s : State) : List Event :=
  match m with
  | .zp _ | .abs _ => []
  | .zpx b | .zpy b => [s.readEvent 0 (zext16 b)]
  | .absx w => correctionEvents cls w s.x 0 s
  | .absy w => correctionEvents cls w s.y 0 s
  | .izx b =>
    [s.readEvent 2 (zext16 (b + s.x + 1#8)), s.readEvent 1 (zext16 (b + s.x)), s.readEvent 0 (zext16 b)]
  | .izy z =>
    correctionEvents cls (izyBase z s) s.y 2 s ++ [s.readEvent 1 (zext16 (z + 1#8)), s.readEvent 0 (zext16 z)]

/-- The flags the table of R48 lists for an instruction. -/
structure FlagSet where
  n : Bool
  v : Bool
  d : Bool
  i : Bool
  z : Bool
  c : Bool
  deriving DecidableEq, Repr

/-- R48: which flags each mnemonic writes. An illegal opcode writes none (R245). -/
def flagsWritten : Instr → FlagSet
  | .adc _ | .sbc _ => ⟨true, true, false, false, true, true⟩
  | .and _ | .ora _ | .eor _ => ⟨true, false, false, false, true, false⟩
  | .asl _ | .rol _ | .lsr _ | .ror _ => ⟨true, false, false, false, true, true⟩
  | .bit _ => ⟨true, true, false, false, true, false⟩
  | .cmp _ | .cpx _ | .cpy _ => ⟨true, false, false, false, true, true⟩
  | .inc _ | .dec _ | .inx | .iny | .dex | .dey => ⟨true, false, false, false, true, false⟩
  | .lda _ | .ldx _ | .ldy _ | .tax | .tay | .txa | .tya | .tsx | .pla => ⟨true, false, false, false, true, false⟩
  | .plp | .rti => ⟨true, true, true, true, true, true⟩
  | .clc | .sec => ⟨false, false, false, false, false, true⟩
  | .cli | .sei | .brk _ => ⟨false, false, false, true, false, false⟩
  | .cld | .sed => ⟨false, false, true, false, false, false⟩
  | .clv => ⟨false, true, false, false, false, false⟩
  | .sta _ | .stx _ | .sty _ | .txs | .pha | .php | .jmp _ | .jsr _ | .rts | .nop
  | .bcc _ | .bcs _ | .beq _ | .bne _ | .bmi _ | .bpl _ | .bvc _ | .bvs _ | .illegal _ =>
    ⟨false, false, false, false, false, false⟩

/-- R30's table: the instructions that write the accumulator. -/
def writesA : Instr → Bool
  | .lda _ | .pla | .txa | .tya | .adc _ | .sbc _ | .and _ | .ora _ | .eor _ => true
  | .asl .acc | .lsr .acc | .rol .acc | .ror .acc => true
  | _ => false

/-- R30's table: the instructions that write X. -/
def writesX : Instr → Bool
  | .ldx _ | .tax | .tsx | .inx | .dex => true
  | _ => false

/-- R30's table: the instructions that write Y. -/
def writesY : Instr → Bool
  | .ldy _ | .tay | .iny | .dey => true
  | _ => false

/-- R30's table: the instructions that write the stack pointer. -/
def writesSp : Instr → Bool
  | .txs | .pha | .php | .pla | .plp | .jsr _ | .rts | .rti | .brk _ => true
  | _ => false

/-- The instructions that write memory: the write and read-modify-write classes (R110) and the pushes. -/
def writesMemory : Instr → Bool
  | .sta _ | .stx _ | .sty _ | .inc _ | .dec _ => true
  | .asl (.mem _) | .lsr (.mem _) | .rol (.mem _) | .ror (.mem _) => true
  | .pha | .php | .jsr _ | .brk _ => true
  | _ => false

/-- The value of a valid BCD byte (R167): its tens digit and its ones digit. -/
def bcdValue (b : Byte) : Nat := b.toNat / 16 * 10 + b.toNat % 16

/-- The flags-from-value law of R39: "value 0 → Zero set; values ≥128 → Negative set; otherwise neither". -/
def Status.fromValue (p : Status) (v : Byte) : Status :=
  { p with z := decide (v.toNat = 0), n := decide (128 ≤ v.toNat) }

/-- `t` is `s` after `events`, the newest first, with the host's next `reads` listed answers used up. -/
def State.afterCycles (s : State) (reads : Nat) (events : List Event) : State :=
  { s with answers := s.answers.drop reads, busCalls := s.busCalls + events.length, trace := events ++ s.trace }

/-- `m` with the byte at a word's address written (R10). -/
def Memory.put (m : Memory) (a : Word) (v : Byte) : Memory := Memory.write m a.toNat v

end Sys2Proof.Machine
end

