-- ==== Sys2Proof/Certificates/Slice0/Obligations.lean ====
section
/-! DEFINITION. The statements for the provers. Each docstring says which rule of spec/ the statement formalises, and
where it rests on a choice of the model's. In the statements about single instructions the state `s` is the one the
meaning starts from: the instruction's bytes have been fetched and PC stands after them. -/

open Sys2Proof Sys2Proof.Machine

/-! ### Encoding -/

/-- R94, a sanity check: words of the map written out bit by bit, one or two for each family. That the decoder refuses a
list too short for its instruction (the last clause) is the model's form, assumption log 17. -/
def Obligations.OpcodeWordsDecodeAsTheMapSays : Prop :=
  decode [0b10101001#8, 0b10000000#8] = .ok (.lda (.imm 0x80), []) ∧
  decode [0b10010001#8, 0b01000000#8] = .ok (.sta (.izy 0x40), []) ∧
  decode [0b10011010#8] = .ok (.txs, []) ∧
  decode [0b01111101#8, 0b00000000#8, 0b00000011#8] = .ok (.adc (.mem (.absx 0x0300)), []) ∧
  decode [0b00100100#8, 0b00010000#8] = .ok (.bit (.mem (.zp 0x10)), []) ∧
  decode [0b01101010#8, 0b11111111#8] = .ok (.ror .acc, [0xFF]) ∧
  decode [0b11011110#8, 0b00110100#8, 0b00010010#8] = .ok (.dec (.absx 0x1234), []) ∧
  decode [0b11010000#8, 0b11111000#8] = .ok (.bne 0xF8, []) ∧
  decode [0b01101100#8, 0b11111111#8, 0b00010000#8] = .ok (.jmp (.ind 0x10FF), []) ∧
  decode [0b00100000#8, 0b00000000#8, 0b00100000#8] = .ok (.jsr 0x2000, []) ∧
  decode [0b00000000#8, 0b11101010#8] = .ok (.brk 0xEA, []) ∧
  decode [0b10001001#8, 0b00000000#8] = .ok (.illegal 0x89, [0x00]) ∧
  decode [0b10101101#8, 0b00000000#8] = .error (.truncated 0xAD)

/-- Decode after encode (R90, R91, R93, R94): every well-formed instruction has an encoding of its own length, and
decoding that encoding with any bytes after it gives back the instruction and those bytes. -/
def Obligations.DecodingAnEncodingGivesTheInstructionBack : Prop :=
  ∀ i : Instr, wellFormed i = true →
    ∃ bytes, encode i = some bytes ∧ bytes.length = i.length ∧ ∀ rest, decode (bytes ++ rest) = .ok (i, rest)

/-- Encode after decode (R90, R94, R102): whatever bytes decode, the instruction is well formed and its encoding is the
bytes it was decoded from. -/
def Obligations.EncodingADecodingGivesTheBytesBack : Prop :=
  ∀ (bytes : List Byte) (i : Instr) (rest : List Byte), decode bytes = .ok (i, rest) →
    wellFormed i = true ∧ ∃ own, encode i = some own ∧ bytes = own ++ rest

/-- R102 and R100: the decoder is total on opcode values, and "illegal" is its verdict on exactly the 105 listed. -/
def Obligations.ExactlyTheListedOpcodesAreIllegal : Prop :=
  illegalOpcodes.length = 105 ∧ illegalOpcodes.Nodup ∧
  ∀ (op b1 b2 : Byte) (rest : List Byte), ∃ i left,
    decode (op :: b1 :: b2 :: rest) = .ok (i, left) ∧ wellFormed i = true ∧
    left = (b1 :: b2 :: rest).drop (i.length - 1) ∧
    (op ∈ illegalOpcodes ↔ i = .illegal op) ∧ (op ∉ illegalOpcodes ↔ i.documented = true)

/-! ### The step -/

/-- R129, R261, R267: inside `run` with no Nmi latched, a step fetches the bytes the bus answers at PC and runs the
instruction they decode to, with `afterInstruction` (the charge and the check point) around it. -/
def Obligations.StepRunsTheDecodedInstruction : Prop :=
  ∀ (s : State) (i : Instr) (rest : List Byte), s.runState = .running → s.nmiPending = false →
    decode [(fetch s).1, (fetch (afterFetches 1 s)).1, (fetch (afterFetches 2 s)).1] = .ok (i, rest) →
    step s =
      match exec i (afterFetches (fetchedBytes i) s) with
      | .next t => .next (afterInstruction s.busCalls t)
      | .fault r => .fault r
      | .refused r => .refused r

/-- The same with the fetches written out: the bytes the bus answers at PC, PC + 1 and PC + 2 (modulo 65536) decide, each
fetched byte is one bus read, and PC ends after the fetched bytes (R35). On a RAM bus the answers are memory's bytes. -/
def Obligations.StepRunsTheBytesTheBusAnswersAtPc : Prop :=
  ∀ (s : State) (i : Instr) (rest : List Byte), s.runState = .running → s.nmiPending = false →
    decode [s.answerAfter 0 s.pc, s.answerAfter 1 (s.pc + 1#16), s.answerAfter 2 (s.pc + 2#16)] = .ok (i, rest) →
    step s =
      match exec i
        { s.afterCycles (fetchedBytes i)
            ([s.readEvent 2 (s.pc + 2#16), s.readEvent 1 (s.pc + 1#16), s.readEvent 0 s.pc].drop (3 - fetchedBytes i))
          with pc := s.pc + BitVec.ofNat 16 (fetchedBytes i) } with
      | .next t => .next (afterInstruction s.busCalls t)
      | .fault r => .fault r
      | .refused r => .refused r

/-- R267, R19 and assumption log 6 (the model's choice of what a step from Halted is): outside `run` a step is the host's
call of `run`. If that call returns at once, the step is the call; otherwise it is the call's first turn, with the cycle
total at 0, and that happens exactly for a block that has been reset and stands in no fault. Inside `run` the call is
refused (D14). -/
def Obligations.StepFromHaltedBeginsARun : Prop :=
  (∀ s : State, s.runState = .running → hostRun s = .refused .runInsideRun) ∧
  ∀ s : State, s.runState = .halted →
    ∃ u, hostRun s = .next u ∧
      (u.runState = .halted → step s = .next u) ∧
      (u.runState = .running → step s = step u ∧ u = { s with runState := .running, runCycles := 0, returned := none }) ∧
      (u.runState = .running ↔ s.resetDone = true ∧ s.fault = none)

/-- R261, R262: an instruction's cost, the bus calls made since its step began, is added to the run total and taken from
the budget, and then comes the check point, which does nothing while the budget stays above 0. After an instruction that
ended `run` by a fault nothing is charged and no check point follows (R251). -/
def Obligations.AnInstructionsCostIsCharged : Prop :=
  ∀ (calls : Nat) (t : State),
    let cost := t.busCalls - calls
    let charged := { t with runCycles := t.runCycles + cost, budget := t.budget - (cost : Int) }
    (t.runState = .running → afterInstruction calls t = checkPoint charged) ∧
    (t.runState = .running → (cost : Int) < t.budget → afterInstruction calls t = charged) ∧
    (t.runState = .halted → afterInstruction calls t = t)

/-- The invariant (`RunInv`): every step keeps memory canonical, the budget within the bounds R262 and R52 leave it between
steps, and a running block reset and without a fault. -/
def Obligations.EveryStepKeepsTheInvariant : Prop :=
  ∀ s t : State, RunInv s → step s = .next t → RunInv t

/-- The state after reset meets the invariant. -/
def Obligations.TheResetStateMeetsTheInvariant : Prop := RunInv State.reset

/-- Construction establishes the invariant, and the host's other two operations keep it. -/
def Obligations.TheHostsOperationsKeepTheInvariant : Prop :=
  (∀ params host s, Memory.wf host.mem = true → construct params host = .next s → RunInv s) ∧
  (∀ v s t, RunInv s → hostReset v s = .next t → RunInv t) ∧
  (∀ ty s, RunInv s → RunInv (interupt ty s))

/-- R21, R68, R69: a step only adds to the record of calls, and the bus calls it counts are the bus calls it records. -/
def Obligations.EveryStepOnlyExtendsTheTrace : Prop :=
  ∀ s t : State, step s = .next t →
    ∃ new, t.trace = new ++ s.trace ∧ t.busCalls = s.busCalls + busCallsIn new

/-- R268: "Every step costs between 2 and 7 cycles". Inside `run`, a step that raises no fault is an instruction or, with
the Nmi latch set, an Nmi entry; it leads to a state `u` after 2 to 7 bus calls, which are charged as its cost (R261);
and the check point that follows makes no bus call or, for the entry it may make, exactly 7 (R263). -/
def Obligations.EveryStepTakesTwoToSevenBusCalls : Prop :=
  ∀ s t : State, s.runState = .running → s.fault = none → step s = .next t → t.fault = none →
    ∃ u : State,
      (s.nmiPending = true → u = interruptEntry .nmi { s with nmiPending := false }) ∧
      (s.nmiPending = false → exec (fetchInstr s).1 (fetchInstr s).2 = .next u) ∧
      s.busCalls + 2 ≤ u.busCalls ∧ u.busCalls ≤ s.busCalls + 7 ∧
      (let cost := u.busCalls - s.busCalls
       t = checkPoint { u with runCycles := s.runCycles + cost, budget := s.budget - (cost : Int) }) ∧
      (t.busCalls = u.busCalls ∨ t.busCalls = u.busCalls + 7)

/-! ### Reset, faults and the host's operations -/

/-- R300: what `reset` leaves, its two bus reads in order, and that it is refused inside `run`. `v` is the draw of a
first reset. -/
def Obligations.ResetLoadsThePcAndStackPointer : Prop :=
  ∀ (v : Drawn) (s : State),
    (s.runState = .running → hostReset v s = .refused .resetInsideRun) ∧
    (s.runState = .halted →
      let l := busAnswer 0xFFFC s
      let h := busAnswer 0xFFFD (memRead 0xFFFC s).2
      hostReset v s = .next
        { s.afterCycles 2 [.read 0xFFFD h, .read 0xFFFC l] with
          pc := joinBytes h l
          sp := s.params.resetSp
          a := if s.resetDone then s.a else v.a
          x := if s.resetDone then s.x else v.x
          y := if s.resetDone then s.y else v.y
          p := { (if s.resetDone then s.p else v.p) with i := true }
          nmiPending := false
          irqPending := false
          budget := s.params.period
          resetDone := true })

/-- R57, R300 with the values of assumption log 1, 2, 5 and 18 (the model's choices): State.reset is a block constructed
over a RAM bus that lists nothing after its first `reset`, all draws 0. -/
def Obligations.TheResetStateIsAFirstReset : Prop :=
  ∃ s, construct Params.atReset (Callbacks.ram []) = .next s ∧
    hostReset { a := 0, x := 0, y := 0, p := unpackP 0 } s = .next State.reset

/-- R252: `run` before the first `reset` records NotReset, returns 0 and does nothing else; the fault is sticky, over
later calls and over a reset. -/
def Obligations.RunBeforeResetFaults : Prop :=
  ∀ s : State, s.runState = .halted → s.resetDone = false →
    let t := { s with fault := some Fault.notReset, returned := some 0 }
    hostRun s = .next t ∧ hostRun t = .next t ∧
    ∀ v u, hostReset v t = .next u → u.fault = some .notReset ∧ hostRun u = .next u

/-- R245, R251: an illegal opcode makes one bus read, changes no register, flag or memory, leaves PC at its address and
ends `run` with the total so far; the fault is sticky, over later calls and over a reset. -/
def Obligations.AnIllegalOpcodeFaultsPrecisely : Prop :=
  (∀ s : State, s.runState = .running → s.nmiPending = false → busAnswer s.pc s ∈ illegalOpcodes →
    step s = .next
      { s.afterCycles 1 [.read s.pc (busAnswer s.pc s)] with
        fault := some (.illegalOpcode (busAnswer s.pc s) s.pc)
        runState := .halted
        returned := some (runResult s.params.resultMode s.runCycles) }) ∧
  (∀ (op : Byte) (s : State), exec (.illegal op) s = .next
    { s with
      pc := s.pc - 1#16
      fault := some (.illegalOpcode op (s.pc - 1#16))
      runState := .halted
      returned := some (runResult s.params.resultMode s.runCycles) }) ∧
  (∀ (s : State) (f : Fault), s.runState = .halted → s.resetDone = true → s.fault = some f →
    hostRun s = .next { s with returned := some 0 } ∧ ∀ v t, hostReset v s = .next t → t.fault = some f)

/-- R258: `interupt` sets the latch of its type and does nothing else. -/
def Obligations.InteruptOnlySetsItsLatch : Prop :=
  ∀ s : State, interupt .nmi s = { s with nmiPending := true } ∧ interupt .irq s = { s with irqPending := true }

/-- R57, R7, D19: a block exists only with PERIOD at least 1, and then it is Halted, not reset, with both latches clear,
no fault and a full budget, over the host functions it was given. -/
def Obligations.ConstructionNeedsAPositivePeriod : Prop :=
  ∀ (params : Params) (host : Callbacks),
    (params.period = 0 → construct params host = .refused .periodNotPositive) ∧
    (1 ≤ params.period → ∃ s, construct params host = .next s ∧ s.params = params ∧
      s.mem = host.mem ∧ s.answers = host.answers ∧ s.replies = host.replies ∧
      s.runState = .halted ∧ s.nmiPending = false ∧ s.irqPending = false ∧ s.budget = params.period ∧
      s.runCycles = 0 ∧ s.fault = none ∧ s.resetDone = false)

/-! ### The bus, the stack and memory -/

/-- R10, R11, R33, R34: the bus and stack primitives. A read gives the host's answer, or the memory's byte where the host
lists none (R62, D16); a push writes at 0x0100 + S and a pull reads there, with S wrapping modulo 256. The second clause
says what `answerAfter` stands for in the other statements: the answer to a later read; the third, that on a RAM bus it
is memory's byte. -/
def Obligations.BusAndStackPrimitives : Prop :=
  ∀ s : State,
    (∀ a, (memRead a s).1 = (s.answers.head?.join.getD (s.peek a)) ∧
      (memRead a s).2 = s.afterCycles 1 [.read a (memRead a s).1]) ∧
    (∀ n events a, busAnswer a (s.afterCycles n events) = s.answerAfter n a) ∧
    (s.RamBus → ∀ n a, s.answerAfter n a = s.peek a) ∧
    (∀ a v, memWrite a v s = { s.afterCycles 0 [.write a v] with mem := s.mem.put a v }) ∧
    (fetch s).1 = (memRead s.pc s).1 ∧ (fetch s).2 = { (memRead s.pc s).2 with pc := s.pc + 1#16 } ∧
    (∀ v, push v s = { memWrite (BitVec.ofNat 16 (256 + s.sp.toNat)) v s with sp := BitVec.ofNat 8 (s.sp.toNat + 255) }) ∧
    (let sp' := BitVec.ofNat 8 (s.sp.toNat + 1)
     (pull s).1 = (memRead (BitVec.ofNat 16 (256 + sp'.toNat)) s).1 ∧
     (pull s).2 = { (memRead (BitVec.ofNat 16 (256 + sp'.toNat)) s).2 with sp := sp' })

/-- R60, D16: the memory behind the bus is RAM. In canonical form, a byte written is the byte read back, every other
address keeps its byte, and the form is kept. -/
def Obligations.MemoryIsRam : Prop :=
  ∀ (m : Memory) (a : Word) (v : Byte), Memory.wf m = true →
    Memory.wf (m.put a v) = true ∧ (m.put a v).read a.toNat = v ∧
    ∀ c : Word, c ≠ a → (m.put a v).read c.toNat = m.read c.toNat

/-- The canonical form makes equal memories equal data: two canonical memories that read alike at every address are the
same list. -/
def Obligations.CanonicalMemoriesThatReadAlikeAreEqual : Prop :=
  ∀ m k : Memory, Memory.wf m = true → Memory.wf k = true →
    (∀ a : Word, m.read a.toNat = k.read a.toNat) → m = k

/-! ### Addressing modes -/

/-- R112 to R119, R62: what each mode reads or writes, at which effective address, and every bus cycle after the operand
fetches in order, dummy accesses included. Every byte read is the host's answer to that read; on a RAM bus it is memory's
byte. -/
def Obligations.OperandAccessesMakeTheirBusCycles : Prop :=
  ∀ s : State,
    (∀ v, readOperand (.imm v) s = (v, s)) ∧
    (∀ m, effectiveAddress m s = modeAddress m s) ∧
    (∀ m,
      let ea := modeAddress m s
      let before := addressEvents .read m s
      let v := s.answerAfter before.length ea
      readOperand (.mem m) s = (v, s.afterCycles (before.length + 1) (.read ea v :: before))) ∧
    (∀ m v,
      let ea := modeAddress m s
      let before := addressEvents .write m s
      writeOperand m v s = { s.afterCycles before.length (.write ea v :: before) with mem := s.mem.put ea v }) ∧
    (∀ m f,
      let ea := modeAddress m s
      let before := addressEvents .modify m s
      let old := s.answerAfter before.length ea
      modifyMemory m f s =
        (old,
         { s.afterCycles (before.length + 1) (.write ea (f old) :: .write ea old :: .read ea old :: before) with
           mem := (s.mem.put ea old).put ea (f old) }))

/-- R116, R119, R130: the address and the page test of the indexed modes. The effective address wraps modulo 65536, the
uncorrected address `t` is the effective address exactly where no page is crossed, and that is where lo + idx < 256. -/
def Obligations.PageCrossingIsALowByteCarry : Prop :=
  ∀ (base : Word) (idx : Byte),
    (base + zext16 idx).toNat = (base.toNat + idx.toNat) % 65536 ∧
    (otherPage (base + zext16 idx) base = true ↔ 256 ≤ (lo base).toNat + idx.toNat) ∧
    (uncorrected base idx = base + zext16 idx ↔ (lo base).toNat + idx.toNat < 256)

/-- R132: the number of bus cycles of every documented instruction is its base count and, exactly where a read crosses a
page or a branch is taken, the extra cycles. The fetches made before the meaning runs are counted in. -/
def Obligations.EveryInstructionTakesItsCycles : Prop :=
  ∀ (i : Instr) (s : State), wellFormed i = true → i.documented = true →
    ∃ t, exec i s = .next t ∧ t.busCalls + fetchedBytes i = s.busCalls + baseCycles i + extraCycles i s

/-! ### Loads, stores and transfers -/

/-- R150 to R152: LDA, LDX and LDY read the operand, with its bus cycles, and write it to their register and Z and N from
it; reading an operand changes nothing but the bus record. -/
def Obligations.LoadsWriteTheirRegisterAndZN : Prop :=
  ∀ (m : ReadMode) (s : State),
    let v := (readOperand m s).1
    let t := (readOperand m s).2
    BusOnly s t ∧
    exec (.lda m) s = .next { t with a := v, p := s.p.fromValue v } ∧
    exec (.ldx m) s = .next { t with x := v, p := s.p.fromValue v } ∧
    exec (.ldy m) s = .next { t with y := v, p := s.p.fromValue v }

/-- R153 to R155: STA, STX and STY make the bus cycles of a write-class operand and write one byte at the effective
address; every other byte of memory, every register and every flag is unchanged. -/
def Obligations.StoresWriteOneByteOfMemory : Prop :=
  ∀ (m : MemMode) (s : State), Memory.wf s.mem = true →
    ∀ i v, (i, v) ∈ [(Instr.sta m, s.a), (.stx m, s.x), (.sty m, s.y)] →
      let t := writeOperand m v s
      exec i s = .next t ∧ MemoryOnly s t ∧ t.peek (effectiveAddress m s) = v ∧
        ∀ a, a ≠ effectiveAddress m s → t.peek a = s.peek a

/-- R156 to R161: the six transfers. TXS "is the one transfer that leaves N and Z unchanged". -/
def Obligations.TransfersMoveOneRegister : Prop :=
  [Instr.tax, .tay, .txa, .tya, .tsx, .txs].map encode =
    [some [0xAA], some [0xA8], some [0x8A], some [0x98], some [0xBA], some [0x9A]] ∧
  ∀ s : State,
    let t := s.afterCycles 1 [.read s.pc (busAnswer s.pc s)]
    exec .tax s = .next { t with x := s.a, p := s.p.fromValue s.a } ∧
    exec .tay s = .next { t with y := s.a, p := s.p.fromValue s.a } ∧
    exec .txa s = .next { t with a := s.x, p := s.p.fromValue s.x } ∧
    exec .tya s = .next { t with a := s.y, p := s.p.fromValue s.y } ∧
    exec .tsx s = .next { t with x := s.sp, p := s.p.fromValue s.sp } ∧
    exec .txs s = .next { t with sp := s.x }

/-! ### Arithmetic, logic and compare -/

/-- R165: AddBin. Carry is the unsigned overflow; overflow is the sign rule, which is the signed overflow. -/
def Obligations.BinaryAddCarryAndOverflow : Prop :=
  ∀ (a b : Byte) (cin : Bool),
    let r := addBin a b cin
    r.value.toNat = (a.toNat + b.toNat + cin.toNat) % 256 ∧
    (r.carry = true ↔ 256 ≤ a.toNat + b.toNat + cin.toNat) ∧
    (r.overflow = true ↔ a.msb = b.msb ∧ r.value.msb ≠ a.msb) ∧
    (r.overflow = true ↔ a.toInt + b.toInt + cin.toNat < -128 ∨ 127 < a.toInt + b.toInt + cin.toNat)

/-- R166 to R169: ADC and SBC, in both modes and for every operand, make the operand's bus cycles and write A, C, V, Z and
N and nothing else but the model's draw counter; Z and N are those of the A written. -/
def Obligations.AdcAndSbcWriteAAndFourFlags : Prop :=
  ∀ (m : ReadMode) (s : State),
    let v := (readOperand m s).1
    BusOnly s (readOperand m s).2 ∧
    ∀ i r, (i, r) ∈ [(Instr.adc m, adcSum s v), (.sbc m, sbcSum s v)] →
      exec i s = .next
        { (readOperand m s).2 with
          a := r.value
          p := { s.p.fromValue r.value with c := r.carry, v := r.overflow }
          draws := s.draws + (if s.p.d ∧ s.params.decimalMode = .draw then 2 else 0) }

/-- R166: ADC with D = 0, on integers: the sum modulo 256, C its carry, V the signed overflow. -/
def Obligations.BinaryAdcAddsWithCarry : Prop :=
  ∀ (m : ReadMode) (s : State), s.p.d = false →
    let v := (readOperand m s).1
    ∃ t, exec (.adc m) s = .next t ∧
      t.a.toNat = (s.a.toNat + v.toNat + s.p.c.toNat) % 256 ∧
      (t.p.c = true ↔ 256 ≤ s.a.toNat + v.toNat + s.p.c.toNat) ∧
      (t.p.v = true ↔ s.a.toInt + v.toInt + s.p.c.toNat < -128 ∨ 127 < s.a.toInt + v.toInt + s.p.c.toNat)

/-- R168: SBC with D = 0, on integers: the difference less the borrow, C = 1 for no borrow, V the signed overflow. -/
def Obligations.BinarySbcSubtractsWithBorrow : Prop :=
  ∀ (m : ReadMode) (s : State), s.p.d = false →
    let v := (readOperand m s).1
    ∃ t, exec (.sbc m) s = .next t ∧
      (t.a.toNat : Int) = ((s.a.toNat : Int) - v.toNat - (1 - s.p.c.toNat)) % 256 ∧
      (t.p.c = true ↔ v.toNat + 1 ≤ s.a.toNat + s.p.c.toNat) ∧
      (t.p.v = true ↔ s.a.toInt - v.toInt - (1 - s.p.c.toNat) < -128 ∨ 127 < s.a.toInt - v.toInt - (1 - s.p.c.toNat))

/-- R167: for valid BCD operands decimal ADC gives the BCD sum and its decimal carry, under both settings of
DECIMAL_UNDOC_MODE. -/
def Obligations.DecimalAdcAddsBcd : Prop :=
  ∀ (m : ReadMode) (s : State), s.p.d = true →
    let v := (readOperand m s).1
    validBcd s.a = true → validBcd v = true →
    ∃ t, exec (.adc m) s = .next t ∧ validBcd t.a = true ∧
      bcdValue t.a + 100 * t.p.c.toNat = bcdValue s.a + bcdValue v + s.p.c.toNat

/-- R168, R169: for valid BCD operands decimal SBC gives the BCD difference, and C = 0 is the decimal borrow, under both
settings of DECIMAL_UNDOC_MODE. -/
def Obligations.DecimalSbcSubtractsBcd : Prop :=
  ∀ (m : ReadMode) (s : State), s.p.d = true →
    let v := (readOperand m s).1
    validBcd s.a = true → validBcd v = true →
    ∃ t, exec (.sbc m) s = .next t ∧ validBcd t.a = true ∧
      (bcdValue t.a : Int) = bcdValue s.a - bcdValue v - (1 - s.p.c.toNat) + 100 * (1 - t.p.c.toNat)

/-- R167, R169, D3: decimal ADC and SBC of every two bytes, valid BCD or not. With DECIMAL_UNDOC_MODE = Reference they give
the integer computations of R167 and R169, written out: ADC's V is the sign rule on the intermediate t, and SBC's C and V
are the binary difference's. With Draw (the form of a draw is assumption log 4), V is a free value, and A and C are free
values where an operand is not valid BCD. -/
def Obligations.DecimalArithmeticOfEveryOperand : Prop :=
  ∀ (m : ReadMode) (s : State), s.p.d = true →
    let v := (readOperand m s).1
    let a := s.a.toNat
    let b := v.toNat
    let c := s.p.c.toNat
    (s.params.decimalMode = .reference →
      let lo := a % 16 + b % 16 + c
      let lo' := if 10 ≤ lo then (lo + 6) % 16 + 16 else lo
      let t := (a - a % 16) + (b - b % 16) + lo'
      let t' := if 0xA0 ≤ t then t + 0x60 else t
      exec (.adc m) s = .next
        { (readOperand m s).2 with
          a := BitVec.ofNat 8 t'
          p := { s.p.fromValue (BitVec.ofNat 8 t') with
            c := decide (0x100 ≤ t')
            v := decide (s.a.msb = v.msb ∧ (BitVec.ofNat 8 t).msb ≠ s.a.msb) } }) ∧
    (s.params.decimalMode = .reference →
      let lo : Int := (a % 16 : Nat) - (b % 16 : Nat) + c - 1
      let lo' : Int := if lo < 0 then (lo - 6) % 16 - 16 else lo
      let t : Int := (a - a % 16 : Nat) - (b - b % 16 : Nat) + lo'
      let t' : Int := if t < 0 then t - 0x60 else t
      let difference : Int := s.a.toInt - v.toInt - (1 - c)
      exec (.sbc m) s = .next
        { (readOperand m s).2 with
          a := BitVec.ofInt 8 t'
          p := { s.p.fromValue (BitVec.ofInt 8 t') with
            c := decide (b + 1 ≤ a + c)
            v := decide (difference < -128 ∨ 127 < difference) } }) ∧
    (s.params.decimalMode = .draw → ∀ i, i ∈ [Instr.adc m, .sbc m] →
      ∃ t, exec i s = .next t ∧ t.p.v = Config.freeBit (s.draws + 1) ∧ t.draws = s.draws + 2 ∧
        (¬ (validBcd s.a = true ∧ validBcd v = true) → t.a = Config.freeByte s.draws ∧ t.p.c = Config.freeBit s.draws))

/-- R170 to R172: AND, ORA and EOR make the operand's bus cycles and write A, Z and N and nothing else. -/
def Obligations.LogicWritesAAndZN : Prop :=
  ∀ (m : ReadMode) (s : State),
    let v := (readOperand m s).1
    BusOnly s (readOperand m s).2 ∧
    ∀ i r, (i, r) ∈ [(Instr.and m, s.a &&& v), (.ora m, s.a ||| v), (.eor m, s.a ^^^ v)] →
      exec i s = .next { (readOperand m s).2 with a := r, p := s.p.fromValue r }

/-- R173 to R176: the compares are unsigned, make the operand's bus cycles and write C, Z and N only, and no register; D
has no effect. -/
def Obligations.ComparesSetCZNOnly : Prop :=
  ∀ (m : ReadMode) (s : State),
    let v := (readOperand m s).1
    BusOnly s (readOperand m s).2 ∧
    ∀ i r, (i, r) ∈ [(Instr.cmp m, s.a), (.cpx m, s.x), (.cpy m, s.y)] →
      exec i s = .next
        { (readOperand m s).2 with p :=
          { s.p with
            c := decide (v.toNat ≤ r.toNat)
            z := decide (r.toNat = v.toNat)
            n := decide (128 ≤ (256 + r.toNat - v.toNat) % 256) } }

/-- R177: BIT makes the operand's bus cycles, takes N and V from the operand and Z from A and the operand, and changes
nothing else. -/
def Obligations.BitTakesNVFromTheOperand : Prop :=
  ∀ (m : ReadMode) (s : State),
    let v := (readOperand m s).1
    BusOnly s (readOperand m s).2 ∧
    exec (.bit m) s = .next
      { (readOperand m s).2 with p :=
        { s.p with
          n := decide (128 ≤ v.toNat)
          v := decide (64 ≤ v.toNat % 128)
          z := decide ((s.a &&& v).toNat = 0) } }

/-! ### Shifts, rotates, increments and decrements -/

/-- R190 to R193 in accumulator mode: the new A on integers, C the bit shifted out, Z and N from the new A. -/
def Obligations.ShiftsActOnTheAccumulator : Prop :=
  ∀ s : State,
    let a := s.a.toNat
    let c := s.p.c.toNat
    ∀ i r out, (i, r, out) ∈
      [(Instr.asl .acc, a * 2 % 256, decide (128 ≤ a)), (.lsr .acc, a / 2, decide (a % 2 = 1)),
       (.rol .acc, a * 2 % 256 + c, decide (128 ≤ a)), (.ror .acc, c * 128 + a / 2, decide (a % 2 = 1))] →
      exec i s = .next
        { s.afterCycles 1 [.read s.pc (busAnswer s.pc s)] with
          a := BitVec.ofNat 8 r, p := { s.p.fromValue (BitVec.ofNat 8 r) with c := out } }

/-- R190 to R195, R117 in memory modes: with f the function of the rule, the instruction makes the bus cycles of a
read-modify-write operand, so that the byte the bus answers at the effective address becomes f of it there; the flags are
those of the rule, and every other byte of memory and every register is unchanged. -/
def Obligations.ReadModifyWritesOneByteOfMemory : Prop :=
  ∀ (m : MemMode) (s : State), Memory.wf s.mem = true →
    let ea := effectiveAddress m s
    let old := (s.answerAfter (addressEvents .modify m s).length ea).toNat
    let c := s.p.c.toNat
    ∀ (i : Instr) (f : Nat → Nat) (out : Bool), (i, f, out) ∈
      [(Instr.asl (.mem m), fun v => v * 2 % 256, decide (128 ≤ old)),
       (.lsr (.mem m), fun v => v / 2, decide (old % 2 = 1)),
       (.rol (.mem m), fun v => v * 2 % 256 + c, decide (128 ≤ old)),
       (.ror (.mem m), fun v => c * 128 + v / 2, decide (old % 2 = 1)),
       (.inc m, fun v => (v + 1) % 256, s.p.c), (.dec m, fun v => (v + 255) % 256, s.p.c)] →
      let r := BitVec.ofNat 8 (f old)
      let t := { (modifyMemory m (fun b => BitVec.ofNat 8 (f b.toNat)) s).2 with
        p := { s.p.fromValue r with c := out } }
      exec i s = .next t ∧ MemoryOnly { s with p := t.p } t ∧
        (t.peek ea).toNat = f old ∧ ∀ a, a ≠ ea → t.peek a = s.peek a

/-- R196 to R199: the four index-register steps. -/
def Obligations.IndexRegistersStepByOne : Prop :=
  [Instr.inx, .iny, .dex, .dey].map encode = [some [0xE8], some [0xC8], some [0xCA], some [0x88]] ∧
  ∀ s : State,
    let t := s.afterCycles 1 [.read s.pc (busAnswer s.pc s)]
    exec .inx s = .next { t with x := s.x + 1#8, p := s.p.fromValue (s.x + 1#8) } ∧
    exec .iny s = .next { t with y := s.y + 1#8, p := s.p.fromValue (s.y + 1#8) } ∧
    exec .dex s = .next { t with x := s.x - 1#8, p := s.p.fromValue (s.x - 1#8) } ∧
    exec .dey s = .next { t with y := s.y - 1#8, p := s.p.fromValue (s.y - 1#8) }

/-- R192: "Nine ROLs in a row restore the operand and C, because the rotation is through 9 bits." Each ROL takes the
byte and C to the rotated byte and the bit rotated out. -/
def Obligations.NineRotationsRestoreTheOperand : Prop :=
  ∀ (v : Byte) (p : Status),
    let rol (b : Byte × Status) : Byte × Status :=
      (rotateLeft b.2.c b.1, b.2.shiftedLeft b.1 (rotateLeft b.2.c b.1))
    (rol^[9] (v, p)).1 = v ∧ (rol^[9] (v, p)).2.c = p.c

/-! ### Control transfer -/

/-- R121, R205 to R213: the eight branches, each on its flag. A branch not taken changes nothing; a branch taken adds the
signed displacement to PC modulo 65536, after a dummy read at PC and, where the target is on another page, one at the
target's low byte in PC's page. -/
def Obligations.BranchesTestOneFlag : Prop :=
  [Instr.bcc, .bcs, .beq, .bne, .bmi, .bpl, .bvc, .bvs].map (fun b => encode (b 0x7F)) =
    [some [0x90, 0x7F], some [0xB0, 0x7F], some [0xF0, 0x7F], some [0xD0, 0x7F], some [0x30, 0x7F], some [0x10, 0x7F],
     some [0x50, 0x7F], some [0x70, 0x7F]] ∧
  ∀ (d : Byte) (s : State) (i : Instr) (taken : Bool), (i, taken) ∈
    [(Instr.bcc d, !s.p.c), (.bcs d, s.p.c), (.beq d, s.p.z), (.bne d, !s.p.z), (.bmi d, s.p.n), (.bpl d, !s.p.n),
     (.bvc d, !s.p.v), (.bvs d, s.p.v)] →
    let target := BitVec.ofInt 16 (s.pc.toNat + d.toInt)
    let v1 := busAnswer s.pc s
    let fix := joinBytes (hi s.pc) (lo target)
    let v2 := busAnswer fix (memRead s.pc s).2
    (taken = false → exec i s = .next s) ∧
    (taken = true → hi target = hi s.pc →
      exec i s = .next { s.afterCycles 1 [.read s.pc v1] with pc := target }) ∧
    (taken = true → hi target ≠ hi s.pc →
      exec i s = .next { s.afterCycles 2 [.read fix v2, .read s.pc v1] with pc := target })

/-- R120, R122, R219, R220: JMP absolute, and JMP indirect with the page quirk: the target's high byte is read in the
pointer's own page. -/
def Obligations.JmpTakesItsTarget : Prop :=
  (∀ w, encode (.jmp (.abs w)) = some [0x4C, lo w, hi w] ∧ encode (.jmp (.ind w)) = some [0x6C, lo w, hi w]) ∧
  ∀ (w : Word) (s : State),
    exec (.jmp (.abs w)) s = .next { s with pc := w } ∧
    (let second := if (lo w).toNat = 255 then w - 255#16 else w + 1#16
     let pl := busAnswer w s
     let ph := busAnswer second (memRead w s).2
     exec (.jmp (.ind w)) s = .next { s.afterCycles 2 [.read second ph, .read w pl] with pc := joinBytes ph pl })

/-- R123, R221: JSR pushes the address of its own last byte, high byte first, and only then reads the target's high
byte there: the host answers after the pushes. -/
def Obligations.JsrPushesItsLastAddress : Prop :=
  (∀ w, encode (.jsr w) = some [0x20, lo w, hi w]) ∧
  ∀ (w : Word) (s : State),
    let at1 := stackAddr s.sp
    let at2 := stackAddr (s.sp - 1#8)
    let mem' := (s.mem.put at1 (hi s.pc)).put at2 (lo s.pc)
    let h := { s with mem := mem' }.answerAfter 1 s.pc
    exec (.jsr w) s = .next
      { s.afterCycles 2 [.read s.pc h, .write at2 (lo s.pc), .write at1 (hi s.pc), s.readEvent 0 at1] with
        mem := mem', sp := s.sp - 2#8, pc := joinBytes h (lo w) }

/-- R124, R222: RTS pulls an address, low byte first, and continues one after it. -/
def Obligations.RtsPullsAndAddsOne : Prop :=
  encode .rts = some [0x60] ∧
  ∀ s : State,
    let at0 := stackAddr s.sp
    let at1 := stackAddr (s.sp + 1#8)
    let at2 := stackAddr (s.sp + 2#8)
    let w := joinBytes (s.answerAfter 3 at2) (s.answerAfter 2 at1)
    exec .rts s = .next
      { s.afterCycles 5
          [s.readEvent 4 w, s.readEvent 3 at2, s.readEvent 2 at1, s.readEvent 1 at0, s.readEvent 0 s.pc] with
        sp := s.sp + 2#8, pc := w + 1#16 }

/-- R221, R222 on a RAM bus: RTS after JSR returns to the instruction after the JSR with the stack pointer as before. -/
def Obligations.RtsUndoesJsr : Prop :=
  ∀ (w : Word) (s : State), s.RamBus → Memory.wf s.mem = true →
    ∃ t u, exec (.jsr w) s = .next t ∧ exec .rts t = .next u ∧ u.pc = s.pc + 1#16 ∧ u.sp = s.sp ∧ u.p = s.p ∧ u.a = s.a

/-! ### Stack, flags and system -/

/-- R37, R38: the status byte. Its bits are N V 1 B D I Z C from bit 7 down. Unpacking takes the six stored flags from
their bits and ignores bits 5 and 4: packed again with bit 4 given back, only bit 5 is new. -/
def Obligations.StatusByteLayout : Prop :=
  (∀ (p : Status) (b : Bool),
    (packP p b).getLsbD 7 = p.n ∧ (packP p b).getLsbD 6 = p.v ∧ (packP p b).getLsbD 5 = true ∧
    (packP p b).getLsbD 4 = b ∧ (packP p b).getLsbD 3 = p.d ∧ (packP p b).getLsbD 2 = p.i ∧
    (packP p b).getLsbD 1 = p.z ∧ (packP p b).getLsbD 0 = p.c ∧ unpackP (packP p b) = p) ∧
  ∀ v : Byte, packP (unpackP v) (v.getLsbD 4) = v ||| 0x20#8

/-- R127, R128, R230 to R233: the two pushes and the two pulls, with their dummy reads. -/
def Obligations.StackInstructionsPushAndPull : Prop :=
  [Instr.pha, .php, .pla, .plp].map encode = [some [0x48], some [0x08], some [0x68], some [0x28]] ∧
  ∀ s : State,
    let at0 := stackAddr s.sp
    let at1 := stackAddr (s.sp + 1#8)
    (∀ i v, (i, v) ∈ [(Instr.pha, s.a), (.php, packP s.p true)] →
      exec i s = .next
        { s.afterCycles 1 [.write at0 v, s.readEvent 0 s.pc] with mem := s.mem.put at0 v, sp := s.sp - 1#8 }) ∧
    (let v := s.answerAfter 2 at1
     let t := { s.afterCycles 3 [s.readEvent 2 at1, s.readEvent 1 at0, s.readEvent 0 s.pc] with sp := s.sp + 1#8 }
     exec .pla s = .next { t with a := v, p := s.p.fromValue v } ∧ exec .plp s = .next { t with p := unpackP v })

/-- The document's round trip (R232): on a RAM bus, PLA after PHA gives back A, and PLP after PHP gives back every flag,
with the stack pointer as before. -/
def Obligations.PullsUndoPushes : Prop :=
  ∀ (s : State) (v : Byte) (q : Status), s.RamBus → Memory.wf s.mem = true →
    (∃ t u, exec .pha s = .next t ∧ exec .pla { t with a := v } = .next u ∧ u.a = s.a ∧ u.sp = s.sp ∧ u.y = s.y) ∧
    (∃ t u, exec .php s = .next t ∧ exec .plp { t with p := q } = .next u ∧ u.p = s.p ∧ u.sp = s.sp ∧ u.a = s.a)

/-- R234 to R241: each flag instruction changes its one flag, and NOP none; nothing else changes but the bus record. -/
def Obligations.FlagInstructionsChangeOneFlag : Prop :=
  [Instr.clc, .sec, .cli, .sei, .cld, .sed, .clv, .nop].map encode =
    [some [0x18], some [0x38], some [0x58], some [0x78], some [0xD8], some [0xF8], some [0xB8], some [0xEA]] ∧
  ∀ (s : State) (i : Instr) (p : Status), (i, p) ∈
    [(Instr.clc, { s.p with c := false }), (.sec, { s.p with c := true }), (.cli, { s.p with i := false }),
     (.sei, { s.p with i := true }), (.cld, { s.p with d := false }), (.sed, { s.p with d := true }),
     (.clv, { s.p with v := false }), (.nop, s.p)] →
    exec i s = .next { s.afterCycles 1 [.read s.pc (busAnswer s.pc s)] with p := p }

/-- R126, R243: BRK pushes PC (already past the signature byte) and the status with B = 1 and the old I, sets I, and
loads PC from the Irq vector, as the host answers after the pushes. It runs whatever I is. -/
def Obligations.BrkPushesAndTakesTheIrqVector : Prop :=
  (∀ b, encode (.brk b) = some [0x00, b]) ∧
  ∀ (b : Byte) (s : State),
    let at1 := stackAddr s.sp
    let at2 := stackAddr (s.sp - 1#8)
    let at3 := stackAddr (s.sp - 2#8)
    let mem' := ((s.mem.put at1 (hi s.pc)).put at2 (lo s.pc)).put at3 (packP s.p true)
    let l := { s with mem := mem' }.answerAfter 0 0xFFFE
    let h := { s with mem := mem' }.answerAfter 1 0xFFFF
    exec (.brk b) s = .next
      { s.afterCycles 2
          [.read 0xFFFF h, .read 0xFFFE l, .write at3 (packP s.p true), .write at2 (lo s.pc), .write at1 (hi s.pc)] with
        mem := mem', sp := s.sp - 3#8, p := { s.p with i := true }, pc := joinBytes h l }

/-- R125, R244: RTI pulls the status byte and then PC, low byte first, and adds no one. -/
def Obligations.RtiPullsStatusAndPc : Prop :=
  encode .rti = some [0x40] ∧
  ∀ s : State,
    let at0 := stackAddr s.sp
    let at1 := stackAddr (s.sp + 1#8)
    let at2 := stackAddr (s.sp + 2#8)
    let at3 := stackAddr (s.sp + 3#8)
    exec .rti s = .next
      { s.afterCycles 5
          [s.readEvent 4 at3, s.readEvent 3 at2, s.readEvent 2 at1, s.readEvent 1 at0, s.readEvent 0 s.pc] with
        sp := s.sp + 3#8
        p := unpackP (s.answerAfter 2 at1)
        pc := joinBytes (s.answerAfter 4 at3) (s.answerAfter 3 at2) }

/-! ### Interrupts and the scheduler -/

/-- R270, R271: interrupt entry, seven bus cycles: two dummy reads at PC, PC and the status with B = 0 pushed, I set, PC
from the type's vector, as the host answers after the pushes. A, X, Y, D and the other flags are unchanged. -/
def Obligations.InterruptEntrySavesAndVectors : Prop :=
  ∀ (ty : IntType) (s : State),
    let vec : Word := match ty with | .nmi => 0xFFFA | .irq => 0xFFFE
    let at1 := stackAddr s.sp
    let at2 := stackAddr (s.sp - 1#8)
    let at3 := stackAddr (s.sp - 2#8)
    let mem' := ((s.mem.put at1 (hi s.pc)).put at2 (lo s.pc)).put at3 (packP s.p false)
    let l := { s with mem := mem' }.answerAfter 2 vec
    let h := { s with mem := mem' }.answerAfter 3 (vec + 1#16)
    interruptEntry ty s =
      { s.afterCycles 4
          [.read (vec + 1#16) h, .read vec l, .write at3 (packP s.p false), .write at2 (lo s.pc),
           .write at1 (hi s.pc), s.readEvent 1 s.pc, s.readEvent 0 s.pc] with
        mem := mem', sp := s.sp - 3#8, p := { s.p with i := true }, pc := joinBytes h l }

/-- R272, R273: on a RAM bus, RTI after an interrupt entry, or after BRK, resumes with PC, the flags and the stack
pointer as they were. -/
def Obligations.RtiResumesTheInterruptedProgram : Prop :=
  ∀ s : State, s.RamBus → Memory.wf s.mem = true →
    (∀ ty, ∃ u, exec .rti (interruptEntry ty s) = .next u ∧
      u.pc = s.pc ∧ u.p = s.p ∧ u.sp = s.sp ∧ u.a = s.a ∧ u.x = s.x ∧ u.y = s.y) ∧
    (∀ b, ∃ t u, exec (.brk b) s = .next t ∧ exec .rti t = .next u ∧
      u.pc = s.pc ∧ u.p = s.p ∧ u.sp = s.sp ∧ u.a = s.a ∧ u.x = s.x ∧ u.y = s.y)

/-- R260: inside `run`, whatever I is, a set Nmi latch is cleared and served in place of the instruction at PC, its seven
cycles charged as any step's. -/
def Obligations.ALatchedNmiIsServedFirst : Prop :=
  ∀ s : State, s.runState = .running → s.nmiPending = true →
    let e := interruptEntry .nmi { s with nmiPending := false }
    e.busCalls = s.busCalls + 7 ∧
    step s = .next (checkPoint { e with runCycles := s.runCycles + 7, budget := s.budget - 7 })

/-- R262, R263, R264, R265: with the budget above 0 there is no check point. With it spent, the budget becomes PERIOD,
the host is polled once, and its answer acts: Quit halts and returns; Nmi enters and drops a pending Irq; Irq, or
Continue with the Irq latch set, is served with I = 0 and dropped with I = 1; else nothing. Beyond the answers State
lists the answer is a free value (assumption log 3). -/
def Obligations.TheCheckPointActsOnThePoll : Prop :=
  ∀ s : State,
    (0 < s.budget → checkPoint s = s) ∧
    (s.budget ≤ 0 →
      let r := s.replies.headD (Config.freeReply s.draws)
      let irq := s.irqPending || r.raisesIrq
      let s1 := { s with
        budget := s.params.period
        replies := s.replies.tail
        draws := s.draws + (if s.replies = [] then 1 else 0)
        irqPending := irq
        nmiPending := s.nmiPending || r.raisesNmi
        trace := .poll r.signal :: s.trace }
      let quiet := { s1 with irqPending := false }
      let entered (ty : IntType) (u : State) :=
        { interruptEntry ty u with runCycles := u.runCycles + 7, budget := u.budget - 7 }
      (r.signal = .quit → checkPoint s =
        { s1 with
          runState := .halted
          returned := some (match s.params.resultMode with | .nat => s.runCycles | .mod65536 => s.runCycles % 65536) }) ∧
      (r.signal = .nmi → checkPoint s = { entered .nmi s1 with irqPending := false }) ∧
      (r.signal = .irq ∨ (r.signal = .cont ∧ irq = true) →
        checkPoint s = if s.p.i then quiet else entered .irq quiet) ∧
      (r.signal = .cont → irq = false → checkPoint s = s1))

/-! ### What every instruction leaves alone -/

/-- R48, R40: "A flag not listed is unchanged", for every instruction; Carry and Overflow are set only by the operations
the table lists. -/
def Obligations.FlagsChangeOnlyWhereTheTableSays : Prop :=
  ∀ (i : Instr) (s t : State), exec i s = .next t →
    ((flagsWritten i).n = false → t.p.n = s.p.n) ∧ ((flagsWritten i).v = false → t.p.v = s.p.v) ∧
    ((flagsWritten i).d = false → t.p.d = s.p.d) ∧ ((flagsWritten i).i = false → t.p.i = s.p.i) ∧
    ((flagsWritten i).z = false → t.p.z = s.p.z) ∧ ((flagsWritten i).c = false → t.p.c = s.p.c)

/-- R30, R110: A, X, Y and S change only by the instructions R30's table lists for each, and memory only by the write
class, the read-modify-write class and the pushes. -/
def Obligations.RegistersAndMemoryChangeOnlyByTheirInstructions : Prop :=
  ∀ (i : Instr) (s t : State), exec i s = .next t →
    (writesA i = false → t.a = s.a) ∧ (writesX i = false → t.x = s.x) ∧
    (writesY i = false → t.y = s.y) ∧ (writesSp i = false → t.sp = s.sp) ∧
    (writesMemory i = false → t.mem = s.mem)

/-- R53, R269, R19: no documented instruction stops, and none touches the parameters, the run state, the latches, the
budget, the run total, the fault or what the host will answer to polls. -/
def Obligations.InstructionsLeaveTheSchedulerAlone : Prop :=
  ∀ (i : Instr) (s : State), i.documented = true →
    ∃ t, exec i s = .next t ∧
      t = { s with
        a := t.a, x := t.x, y := t.y, sp := t.sp, pc := t.pc, p := t.p, mem := t.mem, answers := t.answers
        busCalls := t.busCalls, trace := t.trace, draws := t.draws }
end

