-- ==== Sys2Proof/Laws/Bits.lean ====
section
/-! SUPPORT. What splitting, joining and extending bytes and words do to their numbers, and that splitting and joining
undo each other. -/

namespace Sys2Proof.Machine

theorem hi_toNat (w : Word) : (hi w).toNat = w.toNat / 256 := by
  have := w.isLt
  simp only [hi, BitVec.extractLsb'_toNat, Nat.shiftRight_eq_div_pow]
  omega

theorem lo_toNat (w : Word) : (lo w).toNat = w.toNat % 256 := by
  simp [lo, BitVec.extractLsb'_toNat]

theorem joinBytes_toNat (a b : Byte) : (joinBytes a b).toNat = a.toNat * 256 + b.toNat := by
  have h : b.toNat < 2 ^ 8 := b.isLt
  rw [joinBytes, BitVec.toNat_append, ← Nat.shiftLeft_add_eq_or_of_lt h, Nat.shiftLeft_eq]

theorem zext16_toNat (b : Byte) : (zext16 b).toNat = b.toNat := by
  have := b.isLt
  simp only [zext16, BitVec.toNat_setWidth]
  omega

theorem stackAddr_toNat (p : Byte) : (stackAddr p).toNat = 256 + p.toNat := by
  have := p.isLt
  simp only [stackAddr, BitVec.toNat_add, zext16_toNat, BitVec.toNat_ofNat]
  omega

@[simp] theorem hi_joinBytes (a b : Byte) : hi (joinBytes a b) = a := by
  apply BitVec.eq_of_toNat_eq
  have := b.isLt
  rw [hi_toNat, joinBytes_toNat]; omega

@[simp] theorem lo_joinBytes (a b : Byte) : lo (joinBytes a b) = b := by
  apply BitVec.eq_of_toNat_eq
  have := b.isLt
  rw [lo_toNat, joinBytes_toNat]; omega

@[simp] theorem joinBytes_hi_lo (w : Word) : joinBytes (hi w) (lo w) = w := by
  apply BitVec.eq_of_toNat_eq
  rw [joinBytes_toNat, hi_toNat, lo_toNat]; omega

/-- Two stack bytes are the same byte only for the same stack pointer (R33). -/
theorem stackAddr_inj {p q : Byte} (h : stackAddr p = stackAddr q) : p = q := by
  apply BitVec.eq_of_toNat_eq
  have := congrArg BitVec.toNat h
  rw [stackAddr_toNat, stackAddr_toNat] at this; omega

end Sys2Proof.Machine
end

