-- ==== Sys2Proof/Laws/Memory.lean ====
section
/-! SUPPORT. The laws of the memory behind the bus: a read after a write, and that a write keeps the canonical form. -/

namespace Sys2Proof.Machine

/-- Reading the address just written gives the byte written, in a canonical memory from a bound on. -/
theorem Memory.read_write_from (m : Memory) (a : Nat) (v : Byte) (low : Nat) (h : Memory.wfFrom low m = true) :
    Memory.read (Memory.write m a v) a = v := by
  induction m generalizing low with
  | nil => unfold Memory.write; split <;> simp_all [Memory.read]
  | cons e rest ih =>
    obtain ⟨k, b⟩ := e
    simp only [Memory.wfFrom, Bool.and_eq_true, decide_eq_true_eq] at h
    have unlisted_below : ∀ (n : Nat) (r : Memory), Memory.wfFrom n r = true → ∀ c, c < n → Memory.read r c = Memory.unlisted := by
      intro n r
      induction r generalizing n with
      | nil => intros; rfl
      | cons e' rest' ih' =>
        obtain ⟨k', b'⟩ := e'
        intro hw c hc
        simp only [Memory.wfFrom, Bool.and_eq_true, decide_eq_true_eq] at hw
        have hne : k' ≠ c := by omega
        simp only [Memory.read, if_neg hne]
        exact ih' (k' + 1) hw.2 c (by omega)
    simp only [Memory.write]
    split
    · split
      · have hne : k ≠ a := by omega
        simp only [Memory.read, if_neg hne]
        rw [unlisted_below (k + 1) rest h.2 a (by omega)]
        simp_all
      · simp [Memory.read]
    · split
      · split
        · rw [unlisted_below (k + 1) rest h.2 a (by omega)]
          simp_all
        · simp [Memory.read]
      · have hne : k ≠ a := by omega
        simp only [Memory.read, if_neg hne]
        exact ih (k + 1) h.2

/-- Reading the address just written gives the byte written. -/
theorem Memory.read_write_same (m : Memory) (a : Nat) (v : Byte) (h : Memory.wf m = true) :
    Memory.read (Memory.write m a v) a = v :=
  Memory.read_write_from m a v 0 h

/-- A write leaves every other address alone. -/
theorem Memory.read_write_other (m : Memory) (a c : Nat) (v : Byte) (hne : c ≠ a) :
    Memory.read (Memory.write m a v) c = Memory.read m c := by
  induction m with
  | nil => unfold Memory.write; split <;> simp [Memory.read]; omega
  | cons e rest ih =>
    obtain ⟨k, b⟩ := e
    have hac : a ≠ c := Ne.symm hne
    simp only [Memory.write]
    split
    · split
      · rfl
      · simp [Memory.read, hac]
    · split
      · rename_i hak
        subst hak
        split <;> simp [Memory.read, hac]
      · simp only [Memory.read, ih]

/-- A write keeps the canonical form from a bound on. -/
theorem Memory.write_wfFrom (m : Memory) (low a : Nat) (v : Byte) (h : Memory.wfFrom low m = true) (hl : low ≤ a)
    (ha : a < 65536) : Memory.wfFrom low (Memory.write m a v) = true := by
  induction m generalizing low with
  | nil => unfold Memory.write; split <;> simp_all [Memory.wfFrom]
  | cons e rest ih =>
    obtain ⟨k, b⟩ := e
    simp only [Memory.wfFrom, Bool.and_eq_true, decide_eq_true_eq] at h
    obtain ⟨⟨⟨h1, h2⟩, h3⟩, h4⟩ := h
    have weaken : ∀ (n n' : Nat) (r : Memory), n' ≤ n → Memory.wfFrom n r = true → Memory.wfFrom n' r = true := by
      intro n n' r hn hw
      cases r with
      | nil => rfl
      | cons e' rest' =>
        simp only [Memory.wfFrom, Bool.and_eq_true, decide_eq_true_eq] at hw ⊢
        exact ⟨⟨⟨by omega, hw.1.1.2⟩, hw.1.2⟩, hw.2⟩
    simp only [Memory.write]
    split
    · split
      · simp only [Memory.wfFrom, Bool.and_eq_true, decide_eq_true_eq]; exact ⟨⟨⟨h1, h2⟩, h3⟩, h4⟩
      · simp only [Memory.wfFrom, Bool.and_eq_true, decide_eq_true_eq, bne_iff_ne, ne_eq]
        exact ⟨⟨⟨hl, ha⟩, ‹_›⟩, ⟨⟨by omega, h2⟩, by simpa using h3⟩, h4⟩
    · split
      · split
        · exact weaken (k + 1) low rest (by omega) h4
        · rename_i hak _
          subst hak
          simp only [Memory.wfFrom, Bool.and_eq_true, decide_eq_true_eq, bne_iff_ne, ne_eq]
          exact ⟨⟨⟨hl, ha⟩, ‹_›⟩, h4⟩
      · simp only [Memory.wfFrom, Bool.and_eq_true, decide_eq_true_eq]
        exact ⟨⟨⟨h1, h2⟩, h3⟩, ih (k + 1) h4 (by omega)⟩

/-- A write keeps the canonical form. -/
theorem Memory.write_wf (m : Memory) (a : Nat) (v : Byte) (h : Memory.wf m = true) (ha : a < 65536) :
    Memory.wf (Memory.write m a v) = true :=
  Memory.write_wfFrom m 0 a v h (Nat.zero_le a) ha

end Sys2Proof.Machine
end

