-- ==== Sys2Proof/Laws/State.lean ====
section
/-! SUPPORT. What each named update of State does to each field: one lemma per field per update, by rfl. -/

namespace Sys2Proof.Machine

variable (s : State)

@[simp] theorem State.setA_params (v : Byte) : (s.setA v).params = s.params := rfl
@[simp] theorem State.setA_a (v : Byte) : (s.setA v).a = v := rfl
@[simp] theorem State.setA_x (v : Byte) : (s.setA v).x = s.x := rfl
@[simp] theorem State.setA_y (v : Byte) : (s.setA v).y = s.y := rfl
@[simp] theorem State.setA_sp (v : Byte) : (s.setA v).sp = s.sp := rfl
@[simp] theorem State.setA_pc (v : Byte) : (s.setA v).pc = s.pc := rfl
@[simp] theorem State.setA_p (v : Byte) : (s.setA v).p = s.p := rfl
@[simp] theorem State.setA_runState (v : Byte) : (s.setA v).runState = s.runState := rfl
@[simp] theorem State.setA_nmiPending (v : Byte) : (s.setA v).nmiPending = s.nmiPending := rfl
@[simp] theorem State.setA_irqPending (v : Byte) : (s.setA v).irqPending = s.irqPending := rfl
@[simp] theorem State.setA_budget (v : Byte) : (s.setA v).budget = s.budget := rfl
@[simp] theorem State.setA_runCycles (v : Byte) : (s.setA v).runCycles = s.runCycles := rfl
@[simp] theorem State.setA_fault (v : Byte) : (s.setA v).fault = s.fault := rfl
@[simp] theorem State.setA_resetDone (v : Byte) : (s.setA v).resetDone = s.resetDone := rfl
@[simp] theorem State.setA_returned (v : Byte) : (s.setA v).returned = s.returned := rfl
@[simp] theorem State.setA_mem (v : Byte) : (s.setA v).mem = s.mem := rfl
@[simp] theorem State.setA_answers (v : Byte) : (s.setA v).answers = s.answers := rfl
@[simp] theorem State.setA_replies (v : Byte) : (s.setA v).replies = s.replies := rfl
@[simp] theorem State.setA_busCalls (v : Byte) : (s.setA v).busCalls = s.busCalls := rfl
@[simp] theorem State.setA_trace (v : Byte) : (s.setA v).trace = s.trace := rfl
@[simp] theorem State.setA_draws (v : Byte) : (s.setA v).draws = s.draws := rfl

@[simp] theorem State.setX_params (v : Byte) : (s.setX v).params = s.params := rfl
@[simp] theorem State.setX_a (v : Byte) : (s.setX v).a = s.a := rfl
@[simp] theorem State.setX_x (v : Byte) : (s.setX v).x = v := rfl
@[simp] theorem State.setX_y (v : Byte) : (s.setX v).y = s.y := rfl
@[simp] theorem State.setX_sp (v : Byte) : (s.setX v).sp = s.sp := rfl
@[simp] theorem State.setX_pc (v : Byte) : (s.setX v).pc = s.pc := rfl
@[simp] theorem State.setX_p (v : Byte) : (s.setX v).p = s.p := rfl
@[simp] theorem State.setX_runState (v : Byte) : (s.setX v).runState = s.runState := rfl
@[simp] theorem State.setX_nmiPending (v : Byte) : (s.setX v).nmiPending = s.nmiPending := rfl
@[simp] theorem State.setX_irqPending (v : Byte) : (s.setX v).irqPending = s.irqPending := rfl
@[simp] theorem State.setX_budget (v : Byte) : (s.setX v).budget = s.budget := rfl
@[simp] theorem State.setX_runCycles (v : Byte) : (s.setX v).runCycles = s.runCycles := rfl
@[simp] theorem State.setX_fault (v : Byte) : (s.setX v).fault = s.fault := rfl
@[simp] theorem State.setX_resetDone (v : Byte) : (s.setX v).resetDone = s.resetDone := rfl
@[simp] theorem State.setX_returned (v : Byte) : (s.setX v).returned = s.returned := rfl
@[simp] theorem State.setX_mem (v : Byte) : (s.setX v).mem = s.mem := rfl
@[simp] theorem State.setX_answers (v : Byte) : (s.setX v).answers = s.answers := rfl
@[simp] theorem State.setX_replies (v : Byte) : (s.setX v).replies = s.replies := rfl
@[simp] theorem State.setX_busCalls (v : Byte) : (s.setX v).busCalls = s.busCalls := rfl
@[simp] theorem State.setX_trace (v : Byte) : (s.setX v).trace = s.trace := rfl
@[simp] theorem State.setX_draws (v : Byte) : (s.setX v).draws = s.draws := rfl

@[simp] theorem State.setY_params (v : Byte) : (s.setY v).params = s.params := rfl
@[simp] theorem State.setY_a (v : Byte) : (s.setY v).a = s.a := rfl
@[simp] theorem State.setY_x (v : Byte) : (s.setY v).x = s.x := rfl
@[simp] theorem State.setY_y (v : Byte) : (s.setY v).y = v := rfl
@[simp] theorem State.setY_sp (v : Byte) : (s.setY v).sp = s.sp := rfl
@[simp] theorem State.setY_pc (v : Byte) : (s.setY v).pc = s.pc := rfl
@[simp] theorem State.setY_p (v : Byte) : (s.setY v).p = s.p := rfl
@[simp] theorem State.setY_runState (v : Byte) : (s.setY v).runState = s.runState := rfl
@[simp] theorem State.setY_nmiPending (v : Byte) : (s.setY v).nmiPending = s.nmiPending := rfl
@[simp] theorem State.setY_irqPending (v : Byte) : (s.setY v).irqPending = s.irqPending := rfl
@[simp] theorem State.setY_budget (v : Byte) : (s.setY v).budget = s.budget := rfl
@[simp] theorem State.setY_runCycles (v : Byte) : (s.setY v).runCycles = s.runCycles := rfl
@[simp] theorem State.setY_fault (v : Byte) : (s.setY v).fault = s.fault := rfl
@[simp] theorem State.setY_resetDone (v : Byte) : (s.setY v).resetDone = s.resetDone := rfl
@[simp] theorem State.setY_returned (v : Byte) : (s.setY v).returned = s.returned := rfl
@[simp] theorem State.setY_mem (v : Byte) : (s.setY v).mem = s.mem := rfl
@[simp] theorem State.setY_answers (v : Byte) : (s.setY v).answers = s.answers := rfl
@[simp] theorem State.setY_replies (v : Byte) : (s.setY v).replies = s.replies := rfl
@[simp] theorem State.setY_busCalls (v : Byte) : (s.setY v).busCalls = s.busCalls := rfl
@[simp] theorem State.setY_trace (v : Byte) : (s.setY v).trace = s.trace := rfl
@[simp] theorem State.setY_draws (v : Byte) : (s.setY v).draws = s.draws := rfl

@[simp] theorem State.setSp_params (v : Byte) : (s.setSp v).params = s.params := rfl
@[simp] theorem State.setSp_a (v : Byte) : (s.setSp v).a = s.a := rfl
@[simp] theorem State.setSp_x (v : Byte) : (s.setSp v).x = s.x := rfl
@[simp] theorem State.setSp_y (v : Byte) : (s.setSp v).y = s.y := rfl
@[simp] theorem State.setSp_sp (v : Byte) : (s.setSp v).sp = v := rfl
@[simp] theorem State.setSp_pc (v : Byte) : (s.setSp v).pc = s.pc := rfl
@[simp] theorem State.setSp_p (v : Byte) : (s.setSp v).p = s.p := rfl
@[simp] theorem State.setSp_runState (v : Byte) : (s.setSp v).runState = s.runState := rfl
@[simp] theorem State.setSp_nmiPending (v : Byte) : (s.setSp v).nmiPending = s.nmiPending := rfl
@[simp] theorem State.setSp_irqPending (v : Byte) : (s.setSp v).irqPending = s.irqPending := rfl
@[simp] theorem State.setSp_budget (v : Byte) : (s.setSp v).budget = s.budget := rfl
@[simp] theorem State.setSp_runCycles (v : Byte) : (s.setSp v).runCycles = s.runCycles := rfl
@[simp] theorem State.setSp_fault (v : Byte) : (s.setSp v).fault = s.fault := rfl
@[simp] theorem State.setSp_resetDone (v : Byte) : (s.setSp v).resetDone = s.resetDone := rfl
@[simp] theorem State.setSp_returned (v : Byte) : (s.setSp v).returned = s.returned := rfl
@[simp] theorem State.setSp_mem (v : Byte) : (s.setSp v).mem = s.mem := rfl
@[simp] theorem State.setSp_answers (v : Byte) : (s.setSp v).answers = s.answers := rfl
@[simp] theorem State.setSp_replies (v : Byte) : (s.setSp v).replies = s.replies := rfl
@[simp] theorem State.setSp_busCalls (v : Byte) : (s.setSp v).busCalls = s.busCalls := rfl
@[simp] theorem State.setSp_trace (v : Byte) : (s.setSp v).trace = s.trace := rfl
@[simp] theorem State.setSp_draws (v : Byte) : (s.setSp v).draws = s.draws := rfl

@[simp] theorem State.setPc_params (v : Word) : (s.setPc v).params = s.params := rfl
@[simp] theorem State.setPc_a (v : Word) : (s.setPc v).a = s.a := rfl
@[simp] theorem State.setPc_x (v : Word) : (s.setPc v).x = s.x := rfl
@[simp] theorem State.setPc_y (v : Word) : (s.setPc v).y = s.y := rfl
@[simp] theorem State.setPc_sp (v : Word) : (s.setPc v).sp = s.sp := rfl
@[simp] theorem State.setPc_pc (v : Word) : (s.setPc v).pc = v := rfl
@[simp] theorem State.setPc_p (v : Word) : (s.setPc v).p = s.p := rfl
@[simp] theorem State.setPc_runState (v : Word) : (s.setPc v).runState = s.runState := rfl
@[simp] theorem State.setPc_nmiPending (v : Word) : (s.setPc v).nmiPending = s.nmiPending := rfl
@[simp] theorem State.setPc_irqPending (v : Word) : (s.setPc v).irqPending = s.irqPending := rfl
@[simp] theorem State.setPc_budget (v : Word) : (s.setPc v).budget = s.budget := rfl
@[simp] theorem State.setPc_runCycles (v : Word) : (s.setPc v).runCycles = s.runCycles := rfl
@[simp] theorem State.setPc_fault (v : Word) : (s.setPc v).fault = s.fault := rfl
@[simp] theorem State.setPc_resetDone (v : Word) : (s.setPc v).resetDone = s.resetDone := rfl
@[simp] theorem State.setPc_returned (v : Word) : (s.setPc v).returned = s.returned := rfl
@[simp] theorem State.setPc_mem (v : Word) : (s.setPc v).mem = s.mem := rfl
@[simp] theorem State.setPc_answers (v : Word) : (s.setPc v).answers = s.answers := rfl
@[simp] theorem State.setPc_replies (v : Word) : (s.setPc v).replies = s.replies := rfl
@[simp] theorem State.setPc_busCalls (v : Word) : (s.setPc v).busCalls = s.busCalls := rfl
@[simp] theorem State.setPc_trace (v : Word) : (s.setPc v).trace = s.trace := rfl
@[simp] theorem State.setPc_draws (v : Word) : (s.setPc v).draws = s.draws := rfl

@[simp] theorem State.setP_params (v : Status) : (s.setP v).params = s.params := rfl
@[simp] theorem State.setP_a (v : Status) : (s.setP v).a = s.a := rfl
@[simp] theorem State.setP_x (v : Status) : (s.setP v).x = s.x := rfl
@[simp] theorem State.setP_y (v : Status) : (s.setP v).y = s.y := rfl
@[simp] theorem State.setP_sp (v : Status) : (s.setP v).sp = s.sp := rfl
@[simp] theorem State.setP_pc (v : Status) : (s.setP v).pc = s.pc := rfl
@[simp] theorem State.setP_p (v : Status) : (s.setP v).p = v := rfl
@[simp] theorem State.setP_runState (v : Status) : (s.setP v).runState = s.runState := rfl
@[simp] theorem State.setP_nmiPending (v : Status) : (s.setP v).nmiPending = s.nmiPending := rfl
@[simp] theorem State.setP_irqPending (v : Status) : (s.setP v).irqPending = s.irqPending := rfl
@[simp] theorem State.setP_budget (v : Status) : (s.setP v).budget = s.budget := rfl
@[simp] theorem State.setP_runCycles (v : Status) : (s.setP v).runCycles = s.runCycles := rfl
@[simp] theorem State.setP_fault (v : Status) : (s.setP v).fault = s.fault := rfl
@[simp] theorem State.setP_resetDone (v : Status) : (s.setP v).resetDone = s.resetDone := rfl
@[simp] theorem State.setP_returned (v : Status) : (s.setP v).returned = s.returned := rfl
@[simp] theorem State.setP_mem (v : Status) : (s.setP v).mem = s.mem := rfl
@[simp] theorem State.setP_answers (v : Status) : (s.setP v).answers = s.answers := rfl
@[simp] theorem State.setP_replies (v : Status) : (s.setP v).replies = s.replies := rfl
@[simp] theorem State.setP_busCalls (v : Status) : (s.setP v).busCalls = s.busCalls := rfl
@[simp] theorem State.setP_trace (v : Status) : (s.setP v).trace = s.trace := rfl
@[simp] theorem State.setP_draws (v : Status) : (s.setP v).draws = s.draws := rfl

@[simp] theorem State.disableInterrupts_params : s.disableInterrupts.params = s.params := rfl
@[simp] theorem State.disableInterrupts_a : s.disableInterrupts.a = s.a := rfl
@[simp] theorem State.disableInterrupts_x : s.disableInterrupts.x = s.x := rfl
@[simp] theorem State.disableInterrupts_y : s.disableInterrupts.y = s.y := rfl
@[simp] theorem State.disableInterrupts_sp : s.disableInterrupts.sp = s.sp := rfl
@[simp] theorem State.disableInterrupts_pc : s.disableInterrupts.pc = s.pc := rfl
@[simp] theorem State.disableInterrupts_p : s.disableInterrupts.p = { s.p with i := true } := rfl
@[simp] theorem State.disableInterrupts_runState : s.disableInterrupts.runState = s.runState := rfl
@[simp] theorem State.disableInterrupts_nmiPending : s.disableInterrupts.nmiPending = s.nmiPending := rfl
@[simp] theorem State.disableInterrupts_irqPending : s.disableInterrupts.irqPending = s.irqPending := rfl
@[simp] theorem State.disableInterrupts_budget : s.disableInterrupts.budget = s.budget := rfl
@[simp] theorem State.disableInterrupts_runCycles : s.disableInterrupts.runCycles = s.runCycles := rfl
@[simp] theorem State.disableInterrupts_fault : s.disableInterrupts.fault = s.fault := rfl
@[simp] theorem State.disableInterrupts_resetDone : s.disableInterrupts.resetDone = s.resetDone := rfl
@[simp] theorem State.disableInterrupts_returned : s.disableInterrupts.returned = s.returned := rfl
@[simp] theorem State.disableInterrupts_mem : s.disableInterrupts.mem = s.mem := rfl
@[simp] theorem State.disableInterrupts_answers : s.disableInterrupts.answers = s.answers := rfl
@[simp] theorem State.disableInterrupts_replies : s.disableInterrupts.replies = s.replies := rfl
@[simp] theorem State.disableInterrupts_busCalls : s.disableInterrupts.busCalls = s.busCalls := rfl
@[simp] theorem State.disableInterrupts_trace : s.disableInterrupts.trace = s.trace := rfl
@[simp] theorem State.disableInterrupts_draws : s.disableInterrupts.draws = s.draws := rfl

@[simp] theorem memRead_params (a : Word) : (memRead a s).2.params = s.params := rfl
@[simp] theorem memRead_a (a : Word) : (memRead a s).2.a = s.a := rfl
@[simp] theorem memRead_x (a : Word) : (memRead a s).2.x = s.x := rfl
@[simp] theorem memRead_y (a : Word) : (memRead a s).2.y = s.y := rfl
@[simp] theorem memRead_sp (a : Word) : (memRead a s).2.sp = s.sp := rfl
@[simp] theorem memRead_pc (a : Word) : (memRead a s).2.pc = s.pc := rfl
@[simp] theorem memRead_p (a : Word) : (memRead a s).2.p = s.p := rfl
@[simp] theorem memRead_runState (a : Word) : (memRead a s).2.runState = s.runState := rfl
@[simp] theorem memRead_nmiPending (a : Word) : (memRead a s).2.nmiPending = s.nmiPending := rfl
@[simp] theorem memRead_irqPending (a : Word) : (memRead a s).2.irqPending = s.irqPending := rfl
@[simp] theorem memRead_budget (a : Word) : (memRead a s).2.budget = s.budget := rfl
@[simp] theorem memRead_runCycles (a : Word) : (memRead a s).2.runCycles = s.runCycles := rfl
@[simp] theorem memRead_fault (a : Word) : (memRead a s).2.fault = s.fault := rfl
@[simp] theorem memRead_resetDone (a : Word) : (memRead a s).2.resetDone = s.resetDone := rfl
@[simp] theorem memRead_returned (a : Word) : (memRead a s).2.returned = s.returned := rfl
@[simp] theorem memRead_mem (a : Word) : (memRead a s).2.mem = s.mem := rfl
@[simp] theorem memRead_answers (a : Word) : (memRead a s).2.answers = s.answers.tail := rfl
@[simp] theorem memRead_replies (a : Word) : (memRead a s).2.replies = s.replies := rfl
@[simp] theorem memRead_busCalls (a : Word) : (memRead a s).2.busCalls = s.busCalls + 1 := rfl
@[simp] theorem memRead_trace (a : Word) : (memRead a s).2.trace = .read a (busAnswer a s) :: s.trace := rfl
@[simp] theorem memRead_draws (a : Word) : (memRead a s).2.draws = s.draws := rfl
@[simp] theorem memRead_value (a : Word) : (memRead a s).1 = busAnswer a s := rfl

@[simp] theorem memWrite_params (a : Word) (v : Byte) : (memWrite a v s).params = s.params := rfl
@[simp] theorem memWrite_a (a : Word) (v : Byte) : (memWrite a v s).a = s.a := rfl
@[simp] theorem memWrite_x (a : Word) (v : Byte) : (memWrite a v s).x = s.x := rfl
@[simp] theorem memWrite_y (a : Word) (v : Byte) : (memWrite a v s).y = s.y := rfl
@[simp] theorem memWrite_sp (a : Word) (v : Byte) : (memWrite a v s).sp = s.sp := rfl
@[simp] theorem memWrite_pc (a : Word) (v : Byte) : (memWrite a v s).pc = s.pc := rfl
@[simp] theorem memWrite_p (a : Word) (v : Byte) : (memWrite a v s).p = s.p := rfl
@[simp] theorem memWrite_runState (a : Word) (v : Byte) : (memWrite a v s).runState = s.runState := rfl
@[simp] theorem memWrite_nmiPending (a : Word) (v : Byte) : (memWrite a v s).nmiPending = s.nmiPending := rfl
@[simp] theorem memWrite_irqPending (a : Word) (v : Byte) : (memWrite a v s).irqPending = s.irqPending := rfl
@[simp] theorem memWrite_budget (a : Word) (v : Byte) : (memWrite a v s).budget = s.budget := rfl
@[simp] theorem memWrite_runCycles (a : Word) (v : Byte) : (memWrite a v s).runCycles = s.runCycles := rfl
@[simp] theorem memWrite_fault (a : Word) (v : Byte) : (memWrite a v s).fault = s.fault := rfl
@[simp] theorem memWrite_resetDone (a : Word) (v : Byte) : (memWrite a v s).resetDone = s.resetDone := rfl
@[simp] theorem memWrite_returned (a : Word) (v : Byte) : (memWrite a v s).returned = s.returned := rfl
@[simp] theorem memWrite_mem (a : Word) (v : Byte) : (memWrite a v s).mem = s.mem.write a.toNat v := rfl
@[simp] theorem memWrite_answers (a : Word) (v : Byte) : (memWrite a v s).answers = s.answers := rfl
@[simp] theorem memWrite_replies (a : Word) (v : Byte) : (memWrite a v s).replies = s.replies := rfl
@[simp] theorem memWrite_busCalls (a : Word) (v : Byte) : (memWrite a v s).busCalls = s.busCalls + 1 := rfl
@[simp] theorem memWrite_trace (a : Word) (v : Byte) : (memWrite a v s).trace = .write a v :: s.trace := rfl
@[simp] theorem memWrite_draws (a : Word) (v : Byte) : (memWrite a v s).draws = s.draws := rfl

end Sys2Proof.Machine
end

