-- ==== Sys2Proof/Laws/Bus.lean ====
section
/-! SUPPORT. What the bus operations do as a whole: which fields they leave alone (`BusOnly`), how many bus calls they
make, that they only ever add to the trace, and that they keep memory canonical. One lemma of each kind per operation. -/

namespace Sys2Proof.Machine

theorem BusOnly.refl (s : State) : BusOnly s s := rfl

theorem BusOnly.trans {s t u : State} (h : BusOnly s t) (k : BusOnly t u) : BusOnly s u := by
  unfold BusOnly at *
  rw [h] at k
  exact k

theorem memRead_busOnly (a : Word) (s : State) : BusOnly s (memRead a s).2 := rfl

theorem dummyRead_busOnly (a : Word) (s : State) : BusOnly s (dummyRead a s) := rfl

theorem impliedCycle_busOnly (s : State) : BusOnly s (impliedCycle s) := rfl

theorem readPair_busOnly (u w : Word) (s : State) : BusOnly s (readPair u w s).2 := rfl

theorem correctHigh_busOnly (cls : Access) (base : Word) (idx : Byte) (s : State) :
    BusOnly s (correctHigh cls base idx s) := by
  unfold correctHigh; split <;> rfl

/-- Resolving an operand's address only reads the bus. -/
theorem resolve_busOnly (cls : Access) (m : MemMode) (s : State) : BusOnly s (resolve cls m s).2 := by
  cases m <;> simp only [resolve]
  case absx | absy => exact correctHigh_busOnly ..
  case izy => exact (readPair_busOnly ..).trans (correctHigh_busOnly ..)
  all_goals rfl

/-- Reading an operand only reads the bus. -/
theorem readOperand_busOnly (m : ReadMode) (s : State) : BusOnly s (readOperand m s).2 := by
  cases m with
  | imm => rfl
  | mem mm => exact (resolve_busOnly ..).trans (memRead_busOnly ..)

/-- The effective address does not depend on the operand class. -/
theorem resolve_address (cls : Access) (m : MemMode) (s : State) : (resolve cls m s).1 = effectiveAddress m s := by
  cases m <;> rfl

theorem correctHigh_busCalls (cls : Access) (base : Word) (idx : Byte) (s : State) :
    (correctHigh cls base idx s).busCalls =
      s.busCalls + (if cls = .read ∧ hi (base + zext16 idx) = hi base then 0 else 1) := by
  unfold correctHigh otherPage
  by_cases h : hi (base + zext16 idx) = hi base <;> by_cases k : cls = .read <;> simp [h, k, dummyRead]

/-- A new trace on top of an old one, with as many bus calls counted as it adds. -/
def Extends (s t : State) : Prop := ∃ new, t.trace = new ++ s.trace ∧ t.busCalls = s.busCalls + busCallsIn new

theorem Extends.refl (s : State) : Extends s s := ⟨[], rfl, rfl⟩

theorem Extends.trans {s t u : State} : Extends s t → Extends t u → Extends s u := by
  rintro ⟨n1, h1, c1⟩ ⟨n2, h2, c2⟩
  refine ⟨n2 ++ n1, by rw [h2, h1, List.append_assoc], ?_⟩
  rw [c2, c1]; simp [busCallsIn]; omega

theorem Extends.of_same {s t : State} (h : t.trace = s.trace) (k : t.busCalls = s.busCalls) : Extends s t :=
  ⟨[], by simpa using h, by simpa [busCallsIn] using k⟩

theorem memRead_extends (a : Word) (s : State) : Extends s (memRead a s).2 := ⟨[.read a (busAnswer a s)], rfl, rfl⟩

theorem dummyRead_extends (a : Word) (s : State) : Extends s (dummyRead a s) := memRead_extends a s

theorem impliedCycle_extends (s : State) : Extends s (impliedCycle s) := memRead_extends s.pc s

theorem memWrite_extends (a : Word) (v : Byte) (s : State) : Extends s (memWrite a v s) := ⟨[.write a v], rfl, rfl⟩

theorem fetch_extends (s : State) : Extends s (fetch s).2 := ⟨[.read s.pc (busAnswer s.pc s)], rfl, rfl⟩

theorem push_extends (v : Byte) (s : State) : Extends s (push v s) := ⟨[.write (stackAddr s.sp) v], rfl, rfl⟩

theorem pull_extends (s : State) : Extends s (pull s).2 :=
  (Extends.of_same (t := s.setSp (s.sp + 1#8)) rfl rfl).trans (memRead_extends ..)

theorem readPair_extends (u w : Word) (s : State) : Extends s (readPair u w s).2 :=
  (memRead_extends u s).trans (memRead_extends w _)

theorem pushPc_extends (s : State) : Extends s (pushPc s) := (push_extends ..).trans (push_extends ..)

theorem pullWord_extends (s : State) : Extends s (pullWord s).2 := (pull_extends s).trans (pull_extends _)

theorem takeInterrupt_extends (b : Bool) (v : Word) (s : State) : Extends s (takeInterrupt b v s) :=
  (((pushPc_extends s).trans (push_extends ..)).trans (readPair_extends v (v + 1#16)
    (push (packP s.p b) (pushPc s)).disableInterrupts)).trans (Extends.of_same rfl rfl)

theorem interruptEntry_extends (t : IntType) (s : State) : Extends s (interruptEntry t s) :=
  ((dummyRead_extends ..).trans (dummyRead_extends ..)).trans (takeInterrupt_extends ..)

theorem returnFromInterrupt_extends (s : State) : Extends s (returnFromInterrupt s) :=
  ((pull_extends s).trans (pullWord_extends ((pull s).2.setP (unpackP (pull s).1)))).trans (Extends.of_same rfl rfl)

theorem correctHigh_extends (cls : Access) (base : Word) (idx : Byte) (s : State) :
    Extends s (correctHigh cls base idx s) := by
  unfold correctHigh; split
  · exact Extends.refl s
  · exact dummyRead_extends ..

theorem resolve_extends (cls : Access) (m : MemMode) (s : State) : Extends s (resolve cls m s).2 := by
  cases m <;> simp only [resolve]
  case absx | absy => exact correctHigh_extends ..
  case izy => exact (readPair_extends ..).trans (correctHigh_extends ..)
  case izx => exact (dummyRead_extends ..).trans (readPair_extends ..)
  case zp | abs => exact Extends.refl s
  all_goals exact dummyRead_extends ..

theorem readOperand_extends (m : ReadMode) (s : State) : Extends s (readOperand m s).2 := by
  cases m with
  | imm => exact Extends.refl s
  | mem mm => exact (resolve_extends ..).trans (memRead_extends ..)

theorem writeOperand_extends (m : MemMode) (v : Byte) (s : State) : Extends s (writeOperand m v s) :=
  (resolve_extends ..).trans (memWrite_extends ..)

theorem readModifyWrite_extends (ea : Word) (f : Byte → Byte) (s : State) : Extends s (readModifyWrite ea f s).2 :=
  ((memRead_extends ..).trans (memWrite_extends ..)).trans (memWrite_extends ..)

theorem modifyMemory_extends (m : MemMode) (f : Byte → Byte) (s : State) : Extends s (modifyMemory m f s).2 :=
  (resolve_extends ..).trans (readModifyWrite_extends ..)

theorem modifyOperand_extends (m : RmwMode) (f : Byte → Byte) (s : State) : Extends s (modifyOperand m f s).2 := by
  cases m with
  | acc => exact (dummyRead_extends s.pc s).trans (Extends.of_same rfl rfl)
  | mem mm => exact modifyMemory_extends ..

theorem branch_extends (c : Bool) (d : Byte) (s : State) : Extends s (branch c d s) := by
  unfold branch; split
  · dsimp only; split
    · exact ((dummyRead_extends ..).trans (dummyRead_extends ..)).trans (Extends.of_same rfl rfl)
    · exact (dummyRead_extends ..).trans (Extends.of_same rfl rfl)
  · exact Extends.refl s

/-- A byte written at a word's address keeps memory canonical. -/
theorem memWrite_wf (a : Word) (v : Byte) (s : State) (h : Memory.wf s.mem = true) :
    Memory.wf (memWrite a v s).mem = true :=
  Memory.write_wf _ _ _ h a.isLt

theorem push_wf (v : Byte) (s : State) (h : Memory.wf s.mem = true) : Memory.wf (push v s).mem = true :=
  memWrite_wf (stackAddr s.sp) v s h

theorem pushPc_wf (s : State) (h : Memory.wf s.mem = true) : Memory.wf (pushPc s).mem = true := push_wf _ _ (push_wf _ _ h)

theorem takeInterrupt_wf (b : Bool) (v : Word) (s : State) (h : Memory.wf s.mem = true) :
    Memory.wf (takeInterrupt b v s).mem = true :=
  push_wf (packP s.p b) (pushPc s) (pushPc_wf s h)

theorem interruptEntry_wf (t : IntType) (s : State) (h : Memory.wf s.mem = true) :
    Memory.wf (interruptEntry t s).mem = true :=
  takeInterrupt_wf false (vectorOf t) (dummyRead s.pc (dummyRead s.pc s)) h

theorem BusOnly.mem_eq {s t : State} (h : BusOnly s t) : t.mem = s.mem := by rw [h]

theorem writeOperand_wf (m : MemMode) (v : Byte) (s : State) (h : Memory.wf s.mem = true) :
    Memory.wf (writeOperand m v s).mem = true :=
  memWrite_wf _ _ _ (by rw [(resolve_busOnly .write m s).mem_eq]; exact h)

theorem modifyMemory_wf (m : MemMode) (f : Byte → Byte) (s : State) (h : Memory.wf s.mem = true) :
    Memory.wf (modifyMemory m f s).2.mem = true :=
  memWrite_wf _ _ _ (memWrite_wf _ _ _ (by rw [memRead_mem, (resolve_busOnly .modify m s).mem_eq]; exact h))

/-- What a bus read leaves alone, field by field. -/
theorem BusOnly.fields {s t : State} (h : BusOnly s t) :
    t.a = s.a ∧ t.x = s.x ∧ t.y = s.y ∧ t.sp = s.sp ∧ t.pc = s.pc ∧ t.p = s.p ∧ t.params = s.params ∧ t.draws = s.draws := by
  rw [h]; simp

theorem push_busCalls (v : Byte) (s : State) : (push v s).busCalls = s.busCalls + 1 := rfl

theorem pull_busCalls (s : State) : (pull s).2.busCalls = s.busCalls + 1 := rfl

theorem readPair_busCalls (u w : Word) (s : State) : (readPair u w s).2.busCalls = s.busCalls + 2 := rfl

theorem pushPc_busCalls (s : State) : (pushPc s).busCalls = s.busCalls + 2 := rfl

theorem pullWord_busCalls (s : State) : (pullWord s).2.busCalls = s.busCalls + 2 := rfl

theorem takeInterrupt_busCalls (b : Bool) (v : Word) (s : State) : (takeInterrupt b v s).busCalls = s.busCalls + 5 := by
  show (readPair v (v + 1#16) (push (packP s.p b) (pushPc s)).disableInterrupts).2.busCalls = _
  rw [readPair_busCalls, State.disableInterrupts_busCalls, push_busCalls, pushPc_busCalls]

theorem interruptEntry_busCalls (t : IntType) (s : State) : (interruptEntry t s).busCalls = s.busCalls + 7 := by
  rw [interruptEntry, takeInterrupt_busCalls]; rfl

theorem returnFromInterrupt_busCalls (s : State) : (returnFromInterrupt s).busCalls = s.busCalls + 3 := by
  show (pullWord ((pull s).2.setP (unpackP (pull s).1))).2.busCalls = _
  rw [pullWord_busCalls, State.setP_busCalls, pull_busCalls]

/-- The bus calls of a read-class operand (R131), the fetches of its instruction counted in `length`. -/
theorem readOperand_busCalls (m : ReadMode) (s : State) :
    (readOperand m s).2.busCalls + m.length = s.busCalls + m.cycles + m.crossing s := by
  cases m with
  | imm v => rfl
  | mem m =>
    cases m <;> simp [readOperand, resolve, ReadMode.length, MemMode.length, ReadMode.cycles, ReadMode.crossing,
      correctHigh_busCalls, dummyRead, readPair]
    all_goals split <;> simp_all

/-- The bus calls of a write-class operand (R131). -/
theorem writeOperand_busCalls (m : MemMode) (v : Byte) (s : State) :
    (writeOperand m v s).busCalls + m.length = s.busCalls + m.writeCycles := by
  cases m <;> simp [writeOperand, resolve, MemMode.length, MemMode.writeCycles, correctHigh_busCalls, dummyRead, readPair]

/-- The bus calls of a read-modify-write operand in memory (R131). -/
theorem modifyMemory_busCalls (m : MemMode) (f : Byte → Byte) (s : State) :
    (modifyMemory m f s).2.busCalls + m.length = s.busCalls + m.modifyCycles := by
  cases m <;> simp [modifyMemory, readModifyWrite, resolve, MemMode.length, MemMode.modifyCycles, correctHigh_busCalls,
    dummyRead, readPair]

/-- The bus calls of a branch after its two fetches (R132). -/
theorem branch_busCalls (c : Bool) (d : Byte) (s : State) :
    (branch c d s).busCalls = s.busCalls + branchExtra c d s := by
  cases c
  · rfl
  · simp only [branch, branchExtra, otherPage]
    by_cases h : hi (s.pc + sext16 d) = hi s.pc <;> simp [h, dummyRead]

end Sys2Proof.Machine
end

