-- ==== Sys2Proof/Laws/Cycles.lean ====
section
/-! SUPPORT. The bus operations as one equation each: what each reads, as the host's answers counted from the state it
starts in (R62), and the cycles it records. On a RAM bus (D16) every answer is memory's byte. -/

namespace Sys2Proof.Machine

theorem busAnswer_eq (a : Word) (s : State) : busAnswer a s = s.answerAfter 0 a := by
  unfold busAnswer State.answerAfter State.peek
  split <;> rename_i h <;> simp [h]

/-- D16: on a RAM bus every read is answered by memory. -/
theorem answerAfter_ram {s : State} (h : s.RamBus) (n : Nat) (a : Word) : s.answerAfter n a = s.peek a := by
  unfold State.RamBus at h
  simp [State.answerAfter, h]

@[simp] theorem afterCycles_none (s : State) : s.afterCycles 0 [] = s := rfl

@[simp] theorem afterCycles_afterCycles (s : State) (n k : Nat) (e f : List Event) :
    (s.afterCycles n e).afterCycles k f = s.afterCycles (n + k) (f ++ e) := by
  simp [State.afterCycles]; omega

@[simp] theorem afterCycles_answerAfter (s : State) (n k : Nat) (e : List Event) (a : Word) :
    (s.afterCycles n e).answerAfter k a = s.answerAfter (n + k) a := by
  simp [State.afterCycles, State.answerAfter, State.peek]

@[simp] theorem afterCycles_readEvent (s : State) (n k : Nat) (e : List Event) (a : Word) :
    (s.afterCycles n e).readEvent k a = s.readEvent (n + k) a := by
  simp [State.readEvent]

/-- A bus read: the host's next answer, and one cycle. -/
theorem memRead_eq (a : Word) (s : State) : memRead a s = (s.answerAfter 0 a, s.afterCycles 1 [s.readEvent 0 a]) := by
  simp [memRead, busAnswer_eq, State.afterCycles, State.readEvent]

theorem dummyRead_eq (a : Word) (s : State) : dummyRead a s = s.afterCycles 1 [s.readEvent 0 a] := by
  rw [dummyRead, memRead_eq]

theorem fetch_eq (s : State) :
    fetch s = (s.answerAfter 0 s.pc, { s.afterCycles 1 [s.readEvent 0 s.pc] with pc := s.pc + 1#16 }) := by
  simp only [fetch, memRead_eq]; rfl

theorem readPair_eq (u w : Word) (s : State) :
    readPair u w s =
      (joinBytes (s.answerAfter 1 w) (s.answerAfter 0 u), s.afterCycles 2 [s.readEvent 1 w, s.readEvent 0 u]) := by
  simp [readPair, memRead_eq]

/-- The page test of the indexed modes is a carry out of the low byte (R130). -/
theorem otherPage_eq_false_iff (base : Word) (idx : Byte) :
    otherPage (base + zext16 idx) base = false ↔ (lo base).toNat + idx.toNat < 256 := by
  have hb := base.isLt
  have hx := idx.isLt
  have e : (base + zext16 idx).toNat = (base.toNat + idx.toNat) % 65536 := by rw [BitVec.toNat_add, zext16_toNat]
  simp only [otherPage, bne_eq_false_iff_eq, ← BitVec.toNat_inj, hi_toNat, lo_toNat, e]
  omega

/-- The correction cycle, after `n` reads and the cycles `e`. -/
theorem correctHigh_eq (cls : Access) (base : Word) (idx : Byte) (n : Nat) (e : List Event) (s : State) :
    correctHigh cls base idx (s.afterCycles n e) =
      s.afterCycles (n + (correctionEvents cls base idx n s).length) (correctionEvents cls base idx n s ++ e) := by
  unfold correctHigh correctionEvents
  simp only [otherPage_eq_false_iff]
  split
  · simp
  · simp [dummyRead_eq, uncorrected]

/-- The effective address of each mode and the bus cycles before the access at it. -/
theorem resolve_eq (cls : Access) (m : MemMode) (s : State) :
    resolve cls m s =
      (modeAddress m s, s.afterCycles (addressEvents cls m s).length (addressEvents cls m s)) := by
  have h0 := fun base idx => correctHigh_eq cls base idx 0 [] s
  simp only [afterCycles_none, Nat.zero_add, List.append_nil] at h0
  cases m <;> simp only [resolve, modeAddress, addressEvents, dummyRead_eq, readPair_eq, correctHigh_eq, h0, izyBase,
    afterCycles_answerAfter, afterCycles_readEvent, afterCycles_afterCycles, afterCycles_none, List.length_append,
    List.length_cons, List.length_nil]
  case izy => simp [State.afterCycles, Nat.add_comm]
  all_goals rfl

end Sys2Proof.Machine
end

