-- ==== Sys2Proof/Laws/Flags.lean ====
section
/-! SUPPORT. The flag computations on numbers: bit 7 and the flags-from-value law (R39). -/

namespace Sys2Proof.Machine

/-- Bit 7 of a byte is set exactly for the values from 128 on (R39). -/
theorem bit7_eq (v : Byte) : v.getLsbD 7 = decide (128 ≤ v.toNat) := by
  have h : v.getLsbD 7 = v.msb := by simp [BitVec.msb_eq_getLsbD_last]
  rw [h, BitVec.msb_eq_decide]

/-- `ZN(v)` and the 256-entry table of R39 are one function. -/
theorem Status.setZN_eq (p : Status) (v : Byte) : p.setZN v = p.fromValue v := by
  have h : (v == 0#8) = decide (v.toNat = 0) := by
    rw [Bool.eq_iff_iff]; simp [← BitVec.toNat_inj]
  simp only [Status.setZN, Status.fromValue, h, bit7_eq]

end Sys2Proof.Machine
end

