-- ==== Sys2Proof/Laws/Frame.lean ====
section
/-! SUPPORT. What the shared operations leave alone: the parameters, the scheduler and what the host will answer to polls
(`SchedulerKept`). One lemma per operation, so that no later proof unfolds one to see an untouched field. -/

namespace Sys2Proof.Machine

/-- Every field of `t` outside the register file, memory and the bus record is as in `s`. -/
structure SchedulerKept (s t : State) : Prop where
  params : t.params = s.params
  runState : t.runState = s.runState
  nmiPending : t.nmiPending = s.nmiPending
  irqPending : t.irqPending = s.irqPending
  budget : t.budget = s.budget
  runCycles : t.runCycles = s.runCycles
  fault : t.fault = s.fault
  resetDone : t.resetDone = s.resetDone
  returned : t.returned = s.returned
  replies : t.replies = s.replies

namespace SchedulerKept

theorem refl (s : State) : SchedulerKept s s := ⟨rfl, rfl, rfl, rfl, rfl, rfl, rfl, rfl, rfl, rfl⟩

theorem trans {s t u : State} (h : SchedulerKept s t) (k : SchedulerKept t u) : SchedulerKept s u :=
  ⟨k.1.trans h.1, k.2.trans h.2, k.3.trans h.3, k.4.trans h.4, k.5.trans h.5, k.6.trans h.6, k.7.trans h.7,
    k.8.trans h.8, k.9.trans h.9, k.10.trans h.10⟩

/-- The frame as one equation. -/
theorem eq {s t : State} (h : SchedulerKept s t) :
    t = { s with
      a := t.a, x := t.x, y := t.y, sp := t.sp, pc := t.pc, p := t.p, mem := t.mem, answers := t.answers
      busCalls := t.busCalls, trace := t.trace, draws := t.draws } := by
  obtain ⟨h1, h2, h3, h4, h5, h6, h7, h8, h9, h10⟩ := h
  cases s; cases t
  simp only at h1 h2 h3 h4 h5 h6 h7 h8 h9 h10
  subst h1 h2 h3 h4 h5 h6 h7 h8 h9 h10
  rfl

end SchedulerKept

section
variable (s : State)

theorem setA_kept (v : Byte) : SchedulerKept s (s.setA v) := ⟨rfl, rfl, rfl, rfl, rfl, rfl, rfl, rfl, rfl, rfl⟩
theorem setX_kept (v : Byte) : SchedulerKept s (s.setX v) := ⟨rfl, rfl, rfl, rfl, rfl, rfl, rfl, rfl, rfl, rfl⟩
theorem setY_kept (v : Byte) : SchedulerKept s (s.setY v) := ⟨rfl, rfl, rfl, rfl, rfl, rfl, rfl, rfl, rfl, rfl⟩
theorem setSp_kept (v : Byte) : SchedulerKept s (s.setSp v) := ⟨rfl, rfl, rfl, rfl, rfl, rfl, rfl, rfl, rfl, rfl⟩
theorem setPc_kept (w : Word) : SchedulerKept s (s.setPc w) := ⟨rfl, rfl, rfl, rfl, rfl, rfl, rfl, rfl, rfl, rfl⟩
theorem setP_kept (p : Status) : SchedulerKept s (s.setP p) := ⟨rfl, rfl, rfl, rfl, rfl, rfl, rfl, rfl, rfl, rfl⟩

theorem memRead_kept (a : Word) : SchedulerKept s (memRead a s).2 := ⟨rfl, rfl, rfl, rfl, rfl, rfl, rfl, rfl, rfl, rfl⟩

theorem memWrite_kept (a : Word) (v : Byte) : SchedulerKept s (memWrite a v s) :=
  ⟨rfl, rfl, rfl, rfl, rfl, rfl, rfl, rfl, rfl, rfl⟩

theorem dummyRead_kept (a : Word) : SchedulerKept s (dummyRead a s) := memRead_kept s a

theorem impliedCycle_kept : SchedulerKept s (impliedCycle s) := memRead_kept s s.pc

theorem fetch_kept : SchedulerKept s (fetch s).2 := (memRead_kept s s.pc).trans (setPc_kept _ _)

theorem push_kept (v : Byte) : SchedulerKept s (push v s) := (memWrite_kept s _ v).trans (setSp_kept _ _)

theorem pull_kept : SchedulerKept s (pull s).2 := (setSp_kept s _).trans (memRead_kept _ _)

theorem readPair_kept (u w : Word) : SchedulerKept s (readPair u w s).2 := (memRead_kept s u).trans (memRead_kept _ w)

theorem pushPc_kept : SchedulerKept s (pushPc s) := (push_kept s _).trans (push_kept _ _)

theorem pullWord_kept : SchedulerKept s (pullWord s).2 := (pull_kept s).trans (pull_kept _)

theorem takeInterrupt_kept (b : Bool) (v : Word) : SchedulerKept s (takeInterrupt b v s) :=
  (((pushPc_kept s).trans (push_kept _ _)).trans (setP_kept _ _)).trans
    ((readPair_kept _ v (v + 1#16)).trans (setPc_kept _ _))

theorem interruptEntry_kept (t : IntType) : SchedulerKept s (interruptEntry t s) :=
  ((dummyRead_kept s s.pc).trans (dummyRead_kept _ s.pc)).trans (takeInterrupt_kept _ _ _)

theorem returnFromInterrupt_kept : SchedulerKept s (returnFromInterrupt s) :=
  ((pull_kept s).trans (setP_kept _ _)).trans ((pullWord_kept _).trans (setPc_kept _ _))

theorem correctHigh_kept (cls : Access) (base : Word) (idx : Byte) : SchedulerKept s (correctHigh cls base idx s) := by
  unfold correctHigh; split
  · exact .refl s
  · exact dummyRead_kept ..

theorem resolve_kept (cls : Access) (m : MemMode) : SchedulerKept s (resolve cls m s).2 := by
  cases m <;> simp only [resolve]
  case absx | absy => exact correctHigh_kept ..
  case izy => exact (readPair_kept ..).trans (correctHigh_kept ..)
  case izx => exact (dummyRead_kept ..).trans (readPair_kept ..)
  case zp | abs => exact .refl s
  all_goals exact dummyRead_kept ..

theorem readOperand_kept (m : ReadMode) : SchedulerKept s (readOperand m s).2 := by
  cases m with
  | imm => exact .refl s
  | mem mm => exact (resolve_kept ..).trans (memRead_kept ..)

theorem writeOperand_kept (m : MemMode) (v : Byte) : SchedulerKept s (writeOperand m v s) :=
  (resolve_kept ..).trans (memWrite_kept ..)

theorem modifyMemory_kept (m : MemMode) (f : Byte → Byte) : SchedulerKept s (modifyMemory m f s).2 :=
  (resolve_kept ..).trans (((memRead_kept ..).trans (memWrite_kept ..)).trans (memWrite_kept ..))

theorem modifyOperand_kept (m : RmwMode) (f : Byte → Byte) : SchedulerKept s (modifyOperand m f s).2 := by
  cases m with
  | acc => exact (dummyRead_kept s s.pc).trans (setA_kept ..)
  | mem mm => exact modifyMemory_kept ..

theorem branch_kept (c : Bool) (d : Byte) : SchedulerKept s (branch c d s) := by
  unfold branch; split
  · dsimp only; split
    · exact ((dummyRead_kept ..).trans (dummyRead_kept ..)).trans (setPc_kept ..)
    · exact (dummyRead_kept ..).trans (setPc_kept ..)
  · exact .refl s

end

end Sys2Proof.Machine
end

