-- ==== Sys2Proof/Laws/PerInstr.lean ====
section
/-! SUPPORT. The family OpcodeReads, a fact about each instruction as it is written: the opcode byte the encoder gives it
is read back by the decoder, with its operand bytes, as that instruction, and its length is one more than their number. -/

namespace Sys2Proof.Laws.OpcodeReads

open Sys2Proof.Machine

/-- The opcode map read by mnemonic (the encoder) agrees with the map read by opcode value (the decoder) at `i`. -/
def Statement (i : Instr) : Prop :=
  ∀ op, wellFormed i = true → opcode i = some op →
    decodeOp op (i.operandBytes.getD 0 0) (i.operandBytes.getD 1 0) = i ∧ i.length = i.operandBytes.length + 1

theorem lda (m : ReadMode) : Statement (.lda m) := by
  intro op _ h
  rcases m with _ | (_ | _ | _ | _ | _ | _ | _ | _) <;> cases h
  all_goals
    first
    | exact ⟨rfl, rfl⟩
    | exact ⟨congrArg (fun w => Instr.lda (.mem (.abs w))) (joinBytes_hi_lo _), rfl⟩
    | exact ⟨congrArg (fun w => Instr.lda (.mem (.absx w))) (joinBytes_hi_lo _), rfl⟩
    | exact ⟨congrArg (fun w => Instr.lda (.mem (.absy w))) (joinBytes_hi_lo _), rfl⟩

theorem ldx (m : ReadMode) : Statement (.ldx m) := by
  intro op _ h
  rcases m with _ | (_ | _ | _ | _ | _ | _ | _ | _) <;> cases h
  all_goals
    first
    | exact ⟨rfl, rfl⟩
    | exact ⟨congrArg (fun w => Instr.ldx (.mem (.abs w))) (joinBytes_hi_lo _), rfl⟩
    | exact ⟨congrArg (fun w => Instr.ldx (.mem (.absx w))) (joinBytes_hi_lo _), rfl⟩
    | exact ⟨congrArg (fun w => Instr.ldx (.mem (.absy w))) (joinBytes_hi_lo _), rfl⟩

theorem ldy (m : ReadMode) : Statement (.ldy m) := by
  intro op _ h
  rcases m with _ | (_ | _ | _ | _ | _ | _ | _ | _) <;> cases h
  all_goals
    first
    | exact ⟨rfl, rfl⟩
    | exact ⟨congrArg (fun w => Instr.ldy (.mem (.abs w))) (joinBytes_hi_lo _), rfl⟩
    | exact ⟨congrArg (fun w => Instr.ldy (.mem (.absx w))) (joinBytes_hi_lo _), rfl⟩

theorem sta (m : MemMode) : Statement (.sta m) := by
  intro op _ h
  rcases m with (_ | _ | _ | _ | _ | _ | _ | _) <;> cases h
  all_goals
    first
    | exact ⟨rfl, rfl⟩
    | exact ⟨congrArg (fun w => Instr.sta (.abs w)) (joinBytes_hi_lo _), rfl⟩
    | exact ⟨congrArg (fun w => Instr.sta (.absx w)) (joinBytes_hi_lo _), rfl⟩
    | exact ⟨congrArg (fun w => Instr.sta (.absy w)) (joinBytes_hi_lo _), rfl⟩

theorem stx (m : MemMode) : Statement (.stx m) := by
  intro op _ h
  rcases m with (_ | _ | _ | _ | _ | _ | _ | _) <;> cases h
  all_goals
    first
    | exact ⟨rfl, rfl⟩
    | exact ⟨congrArg (fun w => Instr.stx (.abs w)) (joinBytes_hi_lo _), rfl⟩

theorem sty (m : MemMode) : Statement (.sty m) := by
  intro op _ h
  rcases m with (_ | _ | _ | _ | _ | _ | _ | _) <;> cases h
  all_goals
    first
    | exact ⟨rfl, rfl⟩
    | exact ⟨congrArg (fun w => Instr.sty (.abs w)) (joinBytes_hi_lo _), rfl⟩

theorem tax : Statement .tax := by rintro op _ ⟨⟩; exact ⟨rfl, rfl⟩

theorem tay : Statement .tay := by rintro op _ ⟨⟩; exact ⟨rfl, rfl⟩

theorem txa : Statement .txa := by rintro op _ ⟨⟩; exact ⟨rfl, rfl⟩

theorem tya : Statement .tya := by rintro op _ ⟨⟩; exact ⟨rfl, rfl⟩

theorem tsx : Statement .tsx := by rintro op _ ⟨⟩; exact ⟨rfl, rfl⟩

theorem txs : Statement .txs := by rintro op _ ⟨⟩; exact ⟨rfl, rfl⟩

theorem adc (m : ReadMode) : Statement (.adc m) := by
  intro op _ h
  rcases m with _ | (_ | _ | _ | _ | _ | _ | _ | _) <;> cases h
  all_goals
    first
    | exact ⟨rfl, rfl⟩
    | exact ⟨congrArg (fun w => Instr.adc (.mem (.abs w))) (joinBytes_hi_lo _), rfl⟩
    | exact ⟨congrArg (fun w => Instr.adc (.mem (.absx w))) (joinBytes_hi_lo _), rfl⟩
    | exact ⟨congrArg (fun w => Instr.adc (.mem (.absy w))) (joinBytes_hi_lo _), rfl⟩

theorem sbc (m : ReadMode) : Statement (.sbc m) := by
  intro op _ h
  rcases m with _ | (_ | _ | _ | _ | _ | _ | _ | _) <;> cases h
  all_goals
    first
    | exact ⟨rfl, rfl⟩
    | exact ⟨congrArg (fun w => Instr.sbc (.mem (.abs w))) (joinBytes_hi_lo _), rfl⟩
    | exact ⟨congrArg (fun w => Instr.sbc (.mem (.absx w))) (joinBytes_hi_lo _), rfl⟩
    | exact ⟨congrArg (fun w => Instr.sbc (.mem (.absy w))) (joinBytes_hi_lo _), rfl⟩

theorem and (m : ReadMode) : Statement (.and m) := by
  intro op _ h
  rcases m with _ | (_ | _ | _ | _ | _ | _ | _ | _) <;> cases h
  all_goals
    first
    | exact ⟨rfl, rfl⟩
    | exact ⟨congrArg (fun w => Instr.and (.mem (.abs w))) (joinBytes_hi_lo _), rfl⟩
    | exact ⟨congrArg (fun w => Instr.and (.mem (.absx w))) (joinBytes_hi_lo _), rfl⟩
    | exact ⟨congrArg (fun w => Instr.and (.mem (.absy w))) (joinBytes_hi_lo _), rfl⟩

theorem ora (m : ReadMode) : Statement (.ora m) := by
  intro op _ h
  rcases m with _ | (_ | _ | _ | _ | _ | _ | _ | _) <;> cases h
  all_goals
    first
    | exact ⟨rfl, rfl⟩
    | exact ⟨congrArg (fun w => Instr.ora (.mem (.abs w))) (joinBytes_hi_lo _), rfl⟩
    | exact ⟨congrArg (fun w => Instr.ora (.mem (.absx w))) (joinBytes_hi_lo _), rfl⟩
    | exact ⟨congrArg (fun w => Instr.ora (.mem (.absy w))) (joinBytes_hi_lo _), rfl⟩

theorem eor (m : ReadMode) : Statement (.eor m) := by
  intro op _ h
  rcases m with _ | (_ | _ | _ | _ | _ | _ | _ | _) <;> cases h
  all_goals
    first
    | exact ⟨rfl, rfl⟩
    | exact ⟨congrArg (fun w => Instr.eor (.mem (.abs w))) (joinBytes_hi_lo _), rfl⟩
    | exact ⟨congrArg (fun w => Instr.eor (.mem (.absx w))) (joinBytes_hi_lo _), rfl⟩
    | exact ⟨congrArg (fun w => Instr.eor (.mem (.absy w))) (joinBytes_hi_lo _), rfl⟩

theorem cmp (m : ReadMode) : Statement (.cmp m) := by
  intro op _ h
  rcases m with _ | (_ | _ | _ | _ | _ | _ | _ | _) <;> cases h
  all_goals
    first
    | exact ⟨rfl, rfl⟩
    | exact ⟨congrArg (fun w => Instr.cmp (.mem (.abs w))) (joinBytes_hi_lo _), rfl⟩
    | exact ⟨congrArg (fun w => Instr.cmp (.mem (.absx w))) (joinBytes_hi_lo _), rfl⟩
    | exact ⟨congrArg (fun w => Instr.cmp (.mem (.absy w))) (joinBytes_hi_lo _), rfl⟩

theorem cpx (m : ReadMode) : Statement (.cpx m) := by
  intro op _ h
  rcases m with _ | (_ | _ | _ | _ | _ | _ | _ | _) <;> cases h
  all_goals
    first
    | exact ⟨rfl, rfl⟩
    | exact ⟨congrArg (fun w => Instr.cpx (.mem (.abs w))) (joinBytes_hi_lo _), rfl⟩

theorem cpy (m : ReadMode) : Statement (.cpy m) := by
  intro op _ h
  rcases m with _ | (_ | _ | _ | _ | _ | _ | _ | _) <;> cases h
  all_goals
    first
    | exact ⟨rfl, rfl⟩
    | exact ⟨congrArg (fun w => Instr.cpy (.mem (.abs w))) (joinBytes_hi_lo _), rfl⟩

theorem bit (m : ReadMode) : Statement (.bit m) := by
  intro op _ h
  rcases m with _ | (_ | _ | _ | _ | _ | _ | _ | _) <;> cases h
  all_goals
    first
    | exact ⟨rfl, rfl⟩
    | exact ⟨congrArg (fun w => Instr.bit (.mem (.abs w))) (joinBytes_hi_lo _), rfl⟩

theorem asl (m : RmwMode) : Statement (.asl m) := by
  intro op _ h
  rcases m with _ | (_ | _ | _ | _ | _ | _ | _ | _) <;> cases h
  all_goals
    first
    | exact ⟨rfl, rfl⟩
    | exact ⟨congrArg (fun w => Instr.asl (.mem (.abs w))) (joinBytes_hi_lo _), rfl⟩
    | exact ⟨congrArg (fun w => Instr.asl (.mem (.absx w))) (joinBytes_hi_lo _), rfl⟩

theorem lsr (m : RmwMode) : Statement (.lsr m) := by
  intro op _ h
  rcases m with _ | (_ | _ | _ | _ | _ | _ | _ | _) <;> cases h
  all_goals
    first
    | exact ⟨rfl, rfl⟩
    | exact ⟨congrArg (fun w => Instr.lsr (.mem (.abs w))) (joinBytes_hi_lo _), rfl⟩
    | exact ⟨congrArg (fun w => Instr.lsr (.mem (.absx w))) (joinBytes_hi_lo _), rfl⟩

theorem rol (m : RmwMode) : Statement (.rol m) := by
  intro op _ h
  rcases m with _ | (_ | _ | _ | _ | _ | _ | _ | _) <;> cases h
  all_goals
    first
    | exact ⟨rfl, rfl⟩
    | exact ⟨congrArg (fun w => Instr.rol (.mem (.abs w))) (joinBytes_hi_lo _), rfl⟩
    | exact ⟨congrArg (fun w => Instr.rol (.mem (.absx w))) (joinBytes_hi_lo _), rfl⟩

theorem ror (m : RmwMode) : Statement (.ror m) := by
  intro op _ h
  rcases m with _ | (_ | _ | _ | _ | _ | _ | _ | _) <;> cases h
  all_goals
    first
    | exact ⟨rfl, rfl⟩
    | exact ⟨congrArg (fun w => Instr.ror (.mem (.abs w))) (joinBytes_hi_lo _), rfl⟩
    | exact ⟨congrArg (fun w => Instr.ror (.mem (.absx w))) (joinBytes_hi_lo _), rfl⟩

theorem inc (m : MemMode) : Statement (.inc m) := by
  intro op _ h
  rcases m with (_ | _ | _ | _ | _ | _ | _ | _) <;> cases h
  all_goals
    first
    | exact ⟨rfl, rfl⟩
    | exact ⟨congrArg (fun w => Instr.inc (.abs w)) (joinBytes_hi_lo _), rfl⟩
    | exact ⟨congrArg (fun w => Instr.inc (.absx w)) (joinBytes_hi_lo _), rfl⟩

theorem dec (m : MemMode) : Statement (.dec m) := by
  intro op _ h
  rcases m with (_ | _ | _ | _ | _ | _ | _ | _) <;> cases h
  all_goals
    first
    | exact ⟨rfl, rfl⟩
    | exact ⟨congrArg (fun w => Instr.dec (.abs w)) (joinBytes_hi_lo _), rfl⟩
    | exact ⟨congrArg (fun w => Instr.dec (.absx w)) (joinBytes_hi_lo _), rfl⟩

theorem inx : Statement .inx := by rintro op _ ⟨⟩; exact ⟨rfl, rfl⟩

theorem iny : Statement .iny := by rintro op _ ⟨⟩; exact ⟨rfl, rfl⟩

theorem dex : Statement .dex := by rintro op _ ⟨⟩; exact ⟨rfl, rfl⟩

theorem dey : Statement .dey := by rintro op _ ⟨⟩; exact ⟨rfl, rfl⟩

theorem bcc (b : Byte) : Statement (.bcc b) := by rintro op _ ⟨⟩; exact ⟨rfl, rfl⟩

theorem bcs (b : Byte) : Statement (.bcs b) := by rintro op _ ⟨⟩; exact ⟨rfl, rfl⟩

theorem beq (b : Byte) : Statement (.beq b) := by rintro op _ ⟨⟩; exact ⟨rfl, rfl⟩

theorem bne (b : Byte) : Statement (.bne b) := by rintro op _ ⟨⟩; exact ⟨rfl, rfl⟩

theorem bmi (b : Byte) : Statement (.bmi b) := by rintro op _ ⟨⟩; exact ⟨rfl, rfl⟩

theorem bpl (b : Byte) : Statement (.bpl b) := by rintro op _ ⟨⟩; exact ⟨rfl, rfl⟩

theorem bvc (b : Byte) : Statement (.bvc b) := by rintro op _ ⟨⟩; exact ⟨rfl, rfl⟩

theorem bvs (b : Byte) : Statement (.bvs b) := by rintro op _ ⟨⟩; exact ⟨rfl, rfl⟩

theorem jmp (m : JmpMode) : Statement (.jmp m) := by
  intro op _ h
  rcases m with _ | _ <;> cases h
  all_goals
    first
    | exact ⟨rfl, rfl⟩
    | exact ⟨congrArg (fun w => Instr.jmp (.abs w)) (joinBytes_hi_lo _), rfl⟩
    | exact ⟨congrArg (fun w => Instr.jmp (.ind w)) (joinBytes_hi_lo _), rfl⟩

theorem jsr (w : Word) : Statement (.jsr w) := by
  rintro op _ ⟨⟩; exact ⟨congrArg Instr.jsr (joinBytes_hi_lo _), rfl⟩

theorem rts : Statement .rts := by rintro op _ ⟨⟩; exact ⟨rfl, rfl⟩

theorem pha : Statement .pha := by rintro op _ ⟨⟩; exact ⟨rfl, rfl⟩

theorem php : Statement .php := by rintro op _ ⟨⟩; exact ⟨rfl, rfl⟩

theorem pla : Statement .pla := by rintro op _ ⟨⟩; exact ⟨rfl, rfl⟩

theorem plp : Statement .plp := by rintro op _ ⟨⟩; exact ⟨rfl, rfl⟩

theorem clc : Statement .clc := by rintro op _ ⟨⟩; exact ⟨rfl, rfl⟩

theorem sec : Statement .sec := by rintro op _ ⟨⟩; exact ⟨rfl, rfl⟩

theorem cli : Statement .cli := by rintro op _ ⟨⟩; exact ⟨rfl, rfl⟩

theorem sei : Statement .sei := by rintro op _ ⟨⟩; exact ⟨rfl, rfl⟩

theorem cld : Statement .cld := by rintro op _ ⟨⟩; exact ⟨rfl, rfl⟩

theorem sed : Statement .sed := by rintro op _ ⟨⟩; exact ⟨rfl, rfl⟩

theorem clv : Statement .clv := by rintro op _ ⟨⟩; exact ⟨rfl, rfl⟩

theorem nop : Statement .nop := by rintro op _ ⟨⟩; exact ⟨rfl, rfl⟩

theorem brk (b : Byte) : Statement (.brk b) := by rintro op _ ⟨⟩; exact ⟨rfl, rfl⟩

theorem rti : Statement .rti := by rintro op _ ⟨⟩; exact ⟨rfl, rfl⟩

theorem illegal (o : Byte) : Statement (.illegal o) := by
  rintro op hw ⟨⟩
  have all : ∀ b : Byte, illegalOpcodes.contains b = true → decodeOp b 0 0 = .illegal b := by decide +kernel
  exact ⟨all o hw, rfl⟩

end Sys2Proof.Laws.OpcodeReads
end

