-- ==== Sys2Proof/Tests/Slice0.lean ====
section
/-! SUPPORT. The model's own tests, each by evaluation. Their expected values come from the spec: the opcode map (R94), the
test vectors of spec/95_test_vectors.md (E1 to E9, V1 to V92) and the examples of the rules named. After them, the
witnesses: states and operands that meet the hypotheses of the statements in Certificates/Slice0/Obligations.lean. -/

namespace Sys2Proof.Tests

open Sys2Proof Sys2Proof.Machine

/-- All flags 0. -/
def noFlags : Status := { n := false, v := false, d := false, i := false, z := false, c := false }

/-- The block inside `run` with PC and the bytes given, all flags 0, and everything else as after reset. -/
def ram (pc : Word) (cells : List (Word × Byte)) : State :=
  { State.reset with
    pc := pc
    p := noFlags
    runState := .running
    mem := cells.foldl (fun m c => m.put c.1 c.2) [] }

/-- The outcome is a next state with the property `f`. -/
def holds (r : Result) (f : State → Bool) : Bool :=
  match r with
  | .next t => f t
  | .fault _ => false
  | .refused _ => false

/-- The outcome is a next state. -/
def runs (r : Result) : Bool := holds r (fun _ => true)

/-! ### WellFormed refuses what the opcode map has no cell for: one ill-formed term for each check -/

theorem test_wf_alu : wellFormed (.lda (.mem (.zpy 0))) = false := by decide
theorem test_wf_load_x : wellFormed (.ldx (.mem (.zpx 0))) = false ∧ wellFormed (.ldx (.mem (.absx 0))) = false := by decide
theorem test_wf_load_y : wellFormed (.ldy (.mem (.zpy 0))) = false ∧ wellFormed (.ldy (.mem (.absy 0))) = false := by decide
theorem test_wf_compare_index : wellFormed (.cpx (.mem (.absx 0))) = false ∧ wellFormed (.cpy (.mem (.izy 0))) = false := by
  decide
theorem test_wf_bit_immediate : wellFormed (.bit (.imm 0)) = false ∧ wellFormed (.bit (.mem (.zpx 0))) = false := by decide
theorem test_wf_store_a : wellFormed (.sta (.zpy 0)) = false := by decide
theorem test_wf_store_x : wellFormed (.stx (.zpx 0)) = false ∧ wellFormed (.stx (.absy 0)) = false := by decide
theorem test_wf_store_y : wellFormed (.sty (.zpy 0)) = false ∧ wellFormed (.sty (.absx 0)) = false := by decide
theorem test_wf_shift : wellFormed (.asl (.mem (.absy 0))) = false ∧ wellFormed (.ror (.mem (.izx 0))) = false := by decide
theorem test_wf_inc : wellFormed (.inc (.izx 0)) = false ∧ wellFormed (.dec (.zpy 0)) = false := by decide
theorem test_wf_illegal_is_not_documented : wellFormed (.illegal 0xA9) = false := by decide
/-- What is ill formed has no encoding. -/
theorem test_ill_formed_is_not_encoded : encode (.sta (.zpy 0)) = none ∧ encode (.illegal 0xEA) = none := by decide

/-! ### Decoding: words written out from the opcode map (R94, R93), at least one for every constructor -/

theorem test_decode_loads :
    decode [0b10101001#8, 0b00000111#8] = .ok (.lda (.imm 0x07), []) ∧
    decode [0b10110110#8, 0b11110000#8] = .ok (.ldx (.mem (.zpy 0xF0)), []) ∧
    decode [0b10111100#8, 0b00110100#8, 0b00010010#8] = .ok (.ldy (.mem (.absx 0x1234)), []) := by decide
theorem test_decode_stores :
    decode [0b10000001#8, 0b01000000#8] = .ok (.sta (.izx 0x40), []) ∧
    decode [0b10001110#8, 0b00110100#8, 0b00010010#8] = .ok (.stx (.abs 0x1234), []) ∧
    decode [0b10010100#8, 0b00010000#8] = .ok (.sty (.zpx 0x10), []) := by decide
theorem test_decode_transfers :
    decode [0b10101010#8] = .ok (.tax, []) ∧ decode [0b10101000#8] = .ok (.tay, []) ∧
    decode [0b10001010#8] = .ok (.txa, []) ∧ decode [0b10011000#8] = .ok (.tya, []) ∧
    decode [0b10111010#8] = .ok (.tsx, []) ∧ decode [0b10011010#8] = .ok (.txs, []) := by decide
theorem test_decode_arithmetic :
    decode [0b01110001#8, 0b01000000#8] = .ok (.adc (.mem (.izy 0x40)), []) ∧
    decode [0b11111001#8, 0b00000000#8, 0b00000011#8] = .ok (.sbc (.mem (.absy 0x0300)), []) := by decide
theorem test_decode_logic :
    decode [0b00101001#8, 0b00111100#8] = .ok (.and (.imm 0x3C), []) ∧
    decode [0b00001101#8, 0b00110100#8, 0b00010010#8] = .ok (.ora (.mem (.abs 0x1234)), []) ∧
    decode [0b01010101#8, 0b00010000#8] = .ok (.eor (.mem (.zpx 0x10)), []) := by decide
theorem test_decode_compare :
    decode [0b11000101#8, 0b00010000#8] = .ok (.cmp (.mem (.zp 0x10)), []) ∧
    decode [0b11100000#8, 0b00000101#8] = .ok (.cpx (.imm 5), []) ∧
    decode [0b11001100#8, 0b00110100#8, 0b00010010#8] = .ok (.cpy (.mem (.abs 0x1234)), []) ∧
    decode [0b00100100#8, 0b00010000#8] = .ok (.bit (.mem (.zp 0x10)), []) := by decide
theorem test_decode_shifts :
    decode [0b00001010#8] = .ok (.asl .acc, []) ∧ decode [0b01000110#8, 0b00010000#8] = .ok (.lsr (.mem (.zp 0x10)), []) ∧
    decode [0b00110110#8, 0b00010000#8] = .ok (.rol (.mem (.zpx 0x10)), []) ∧
    decode [0b01111110#8, 0b00110100#8, 0b00010010#8] = .ok (.ror (.mem (.absx 0x1234)), []) := by decide
theorem test_decode_inc_dec :
    decode [0b11101110#8, 0b00110100#8, 0b00010010#8] = .ok (.inc (.abs 0x1234), []) ∧
    decode [0b11000110#8, 0b00010000#8] = .ok (.dec (.zp 0x10), []) ∧
    decode [0b11101000#8] = .ok (.inx, []) ∧ decode [0b11001000#8] = .ok (.iny, []) ∧
    decode [0b11001010#8] = .ok (.dex, []) ∧ decode [0b10001000#8] = .ok (.dey, []) := by decide
theorem test_decode_branches :
    decode [0b10010000#8, 0b01111111#8] = .ok (.bcc 0x7F, []) ∧ decode [0b10110000#8, 0b00000001#8] = .ok (.bcs 1, []) ∧
    decode [0b11110000#8, 0b00000010#8] = .ok (.beq 2, []) ∧ decode [0b11010000#8, 0b11111010#8] = .ok (.bne 0xFA, []) ∧
    decode [0b00110000#8, 0b10000000#8] = .ok (.bmi 0x80, []) ∧ decode [0b00010000#8, 0b00000011#8] = .ok (.bpl 3, []) ∧
    decode [0b01010000#8, 0b00000100#8] = .ok (.bvc 4, []) ∧ decode [0b01110000#8, 0b00000000#8] = .ok (.bvs 0, []) := by decide
theorem test_decode_jumps :
    decode [0b01001100#8, 0b00110100#8, 0b00010010#8] = .ok (.jmp (.abs 0x1234), []) ∧
    decode [0b01101100#8, 0b11111111#8, 0b00010000#8] = .ok (.jmp (.ind 0x10FF), []) ∧
    decode [0b00100000#8, 0b00000000#8, 0b00100000#8] = .ok (.jsr 0x2000, []) ∧
    decode [0b01100000#8] = .ok (.rts, []) := by decide
theorem test_decode_stack :
    decode [0b01001000#8] = .ok (.pha, []) ∧ decode [0b00001000#8] = .ok (.php, []) ∧
    decode [0b01101000#8] = .ok (.pla, []) ∧ decode [0b00101000#8] = .ok (.plp, []) := by decide
theorem test_decode_flags :
    decode [0b00011000#8] = .ok (.clc, []) ∧ decode [0b00111000#8] = .ok (.sec, []) ∧
    decode [0b01011000#8] = .ok (.cli, []) ∧ decode [0b01111000#8] = .ok (.sei, []) ∧
    decode [0b11011000#8] = .ok (.cld, []) ∧ decode [0b11111000#8] = .ok (.sed, []) ∧
    decode [0b10111000#8] = .ok (.clv, []) ∧ decode [0b11101010#8] = .ok (.nop, []) := by decide
theorem test_decode_system :
    decode [0b00000000#8, 0b11101010#8] = .ok (.brk 0xEA, []) ∧ decode [0b01000000#8] = .ok (.rti, []) ∧
    decode [0b00000010#8] = .ok (.illegal 0x02, []) ∧ decode [0b11111111#8] = .ok (.illegal 0xFF, []) := by decide
theorem test_decode_rejects_by_name :
    decode [] = .error .noOpcode ∧ decode [0x20, 0x00] = .error (.truncated 0x20) ∧
    decode [0xA9] = .error (.truncated 0xA9) := by decide
/-- The table's bit numbering: bit 0 is the least significant bit of the first byte, and missing bits are 0. -/
theorem test_decode_table_word :
    decodeTableWord 16 0x80A9 = some (.lda (.imm 0x80)) ∧ decodeTableWord 24 0x1234BD = some (.lda (.mem (.absx 0x1234))) ∧
    decodeTableWord 8 0x00 = some (.brk 0) := by decide

/-! ### One step of every instruction -/

/-- V2, E2: LDA $20FF,X with X = 01 reads $2100 after a dummy read at $2000; 5 cycles. -/
theorem test_lda_absx_page_cross :
    holds (step ({ ram 0x0200 [(0x0200, 0xBD), (0x0201, 0xFF), (0x0202, 0x20), (0x2000, 0x33)] with x := 0x01, a := 0x55 })) (fun t =>
      t.a == 0x00 && t.p.z == true && t.p.n == false && t.pc == 0x0203 && t.trace.reverse.drop 2 == [.read 0x0200 0xBD, .read 0x0201 0xFF, .read 0x0202 0x20, .read 0x2000 0x33, .read 0x2100 0x00]) = true := by decide

/-- V4: LDA ($40),Y through 12F8 with Y = 10; the dummy read is at $1208. -/
theorem test_lda_izy_page_cross :
    holds (step ({ ram 0x0200 [(0x0200, 0xB1), (0x0201, 0x40), (0x0040, 0xF8), (0x0041, 0x12), (0x1308, 0x77)] with y := 0x10 })) (fun t =>
      t.a == 0x77 && t.trace.reverse.drop 2 == [.read 0x0200 0xB1, .read 0x0201 0x40, .read 0x0040 0xF8, .read 0x0041 0x12, .read 0x1208 0x00, .read 0x1308 0x77]) = true := by decide

/-- V6: LDX $F0,Y with Y = 20 reads $0010. -/
theorem test_ldx_zpy_wraps :
    holds (step ({ ram 0x0200 [(0x0200, 0xB6), (0x0201, 0xF0), (0x0010, 0x9C)] with y := 0x20 })) (fun t =>
      t.x == 0x9C && t.p.n == true && t.p.z == false && t.trace.reverse.drop 2 == [.read 0x0200 0xB6, .read 0x0201 0xF0, .read 0x00F0 0x00, .read 0x0010 0x9C]) = true := by decide

/-- R152: LDY #$00 gives Y = 0, Z = 1, N = 0, in 2 cycles. -/
theorem test_ldy_immediate_zero :
    holds (step ({ ram 0x0200 [(0x0200, 0xA0), (0x0201, 0x00)] with y := 0x77, p := { noFlags with n := true } })) (fun t =>
      t.y == 0x00 && t.p.z == true && t.p.n == false && t.busCalls == 4) = true := by decide

/-- V7: STA $02FF,X with X = 01 reads t = $0200 before it writes $0300. -/
theorem test_sta_absx_dummy_read :
    holds (step ({ ram 0x0200 [(0x0200, 0x9D), (0x0201, 0xFF), (0x0202, 0x02)] with a := 0x42, x := 0x01 })) (fun t =>
      t.peek 0x0300 == 0x42 && t.trace.reverse.drop 2 == [.read 0x0200 0x9D, .read 0x0201 0xFF, .read 0x0202 0x02, .read 0x0200 0x9D, .write 0x0300 0x42]) = true := by decide

/-- V9: STA ($40),Y takes 6 cycles without a page cross. -/
theorem test_sta_izy :
    holds (step ({ ram 0x0200 [(0x0200, 0x91), (0x0201, 0x40), (0x0040, 0x00), (0x0041, 0x03)] with a := 0x55, y := 0x01 })) (fun t =>
      t.peek 0x0301 == 0x55 && t.trace.reverse.drop 2 == [.read 0x0200 0x91, .read 0x0201 0x40, .read 0x0040 0x00, .read 0x0041 0x03, .read 0x0301 0x00, .write 0x0301 0x55]) = true := by decide

/-- R154: STX $F8,Y with Y = 10 writes $0008 in 4 cycles. -/
theorem test_stx_zpy_wraps :
    holds (step ({ ram 0x0200 [(0x0200, 0x96), (0x0201, 0xF8)] with x := 0x07, y := 0x10 })) (fun t =>
      t.peek 0x0008 == 0x07 && t.busCalls == 6) = true := by decide

/-- R155: STY $1234 in 4 cycles. -/
theorem test_sty_abs :
    holds (step ({ ram 0x0200 [(0x0200, 0x8C), (0x0201, 0x34), (0x0202, 0x12)] with y := 0x99 })) (fun t =>
      t.peek 0x1234 == 0x99 && t.busCalls == 6) = true := by decide

/-- V10. -/
theorem test_tax_zero :
    holds (step ({ ram 0x0200 [(0x0200, 0xAA)] with a := 0x00, x := 0x05 })) (fun t =>
      t.x == 0x00 && t.p.z == true && t.p.n == false && t.busCalls == 4 && t.pc == 0x0201) = true := by decide

/-- R157: A = 00 gives Y = 0, Z = 1, N = 0. -/
theorem test_tay_zero :
    holds (step ({ ram 0x0200 [(0x0200, 0xA8)] with y := 0x09 })) (fun t =>
      t.y == 0x00 && t.p.z == true && t.p.n == false) = true := by decide

/-- R158: X = 80 gives A = 80, N = 1. -/
theorem test_txa_negative :
    holds (step ({ ram 0x0200 [(0x0200, 0x8A)] with x := 0x80 })) (fun t =>
      t.a == 0x80 && t.p.n == true) = true := by decide

/-- R159: Y = 01 gives A = 01, N = 0, Z = 0. -/
theorem test_tya :
    holds (step ({ ram 0x0200 [(0x0200, 0x98)] with y := 0x01, p := { noFlags with n := true, z := true } })) (fun t =>
      t.a == 0x01 && t.p.n == false && t.p.z == false) = true := by decide

/-- V11. -/
theorem test_tsx :
    holds (step ({ ram 0x0200 [(0x0200, 0xBA)] with sp := 0xFD })) (fun t =>
      t.x == 0xFD && t.p.n == true) = true := by decide

/-- V12: TXS with X = 00 leaves Z as it was. -/
theorem test_txs_keeps_flags :
    holds (step ({ ram 0x0200 [(0x0200, 0x9A)] with x := 0x00, sp := 0xFF })) (fun t =>
      t.sp == 0x00 && t.p.z == false && t.p.n == false && t.busCalls == 4) = true := by decide

/-- V22: 80 + FF gives 7F with C = 1 and V = 1. -/
theorem test_adc_overflow_and_carry :
    holds (step ({ ram 0x0200 [(0x0200, 0x69), (0x0201, 0xFF)] with a := 0x80 })) (fun t =>
      t.a == 0x7F && t.p.c == true && t.p.v == true && t.p.n == false && t.busCalls == 4) = true := by decide

/-- V29: decimal 58 + 46 + 1 gives 05 with C = 1, and V = 1 under Reference. -/
theorem test_adc_decimal :
    holds (step ({ ram 0x0200 [(0x0200, 0x69), (0x0201, 0x46)] with a := 0x58, p := { noFlags with d := true, c := true } })) (fun t =>
      t.a == 0x05 && t.p.c == true && t.p.z == false && t.p.n == false && t.p.v == true) = true := by decide

/-- V26: 50 - B0 gives A0 with C = 0 and V = 1. -/
theorem test_sbc_overflow :
    holds (step ({ ram 0x0200 [(0x0200, 0xE9), (0x0201, 0xB0)] with a := 0x50, p := { noFlags with c := true } })) (fun t =>
      t.a == 0xA0 && t.p.c == false && t.p.v == true && t.p.n == true) = true := by decide

/-- V32: decimal 00 - 01 gives 99 with C = 0, N = 1, and V = 0 under Reference. -/
theorem test_sbc_decimal_borrow :
    holds (step ({ ram 0x0200 [(0x0200, 0xE9), (0x0201, 0x01)] with a := 0x00, p := { noFlags with d := true, c := true } })) (fun t =>
      t.a == 0x99 && t.p.c == false && t.p.n == true && t.p.z == false && t.p.v == false) = true := by decide

/-- V35. -/
theorem test_and :
    holds (step ({ ram 0x0200 [(0x0200, 0x29), (0x0201, 0x3C)] with a := 0xF0 })) (fun t =>
      t.a == 0x30 && t.p.n == false && t.p.z == false) = true := by decide

/-- V36. -/
theorem test_ora :
    holds (step ({ ram 0x0200 [(0x0200, 0x09), (0x0201, 0x80)] with a := 0x01 })) (fun t =>
      t.a == 0x81 && t.p.n == true) = true := by decide

/-- R172: FF EOR 0F gives F0, N = 1. -/
theorem test_eor :
    holds (step ({ ram 0x0200 [(0x0200, 0x49), (0x0201, 0x0F)] with a := 0xFF })) (fun t =>
      t.a == 0xF0 && t.p.n == true) = true := by decide

/-- V38: 10 - 20 = F0. -/
theorem test_cmp_less :
    holds (step ({ ram 0x0200 [(0x0200, 0xC9), (0x0201, 0x20)] with a := 0x10 })) (fun t =>
      t.a == 0x10 && t.p.c == false && t.p.z == false && t.p.n == true) = true := by decide

/-- V39: the compare is unsigned. -/
theorem test_cmp_unsigned :
    holds (step ({ ram 0x0200 [(0x0200, 0xC9), (0x0201, 0x01)] with a := 0x80 })) (fun t =>
      t.p.c == true && t.p.z == false && t.p.n == false) = true := by decide

/-- V40. -/
theorem test_cpx_equal :
    holds (step ({ ram 0x0200 [(0x0200, 0xE0), (0x0201, 0x05)] with x := 0x05 })) (fun t =>
      t.p.c == true && t.p.z == true && t.p.n == false) = true := by decide

/-- V41. -/
theorem test_cpy_less :
    holds (step ({ ram 0x0200 [(0x0200, 0xC0), (0x0201, 0x01)] with y := 0x00 })) (fun t =>
      t.p.c == false && t.p.z == false && t.p.n == true) = true := by decide

/-- V42: N and V from the operand, Z from A and the operand; A unchanged. -/
theorem test_bit_zp :
    holds (step ({ ram 0x0200 [(0x0200, 0x24), (0x0201, 0x10), (0x0010, 0xC0)] with a := 0x01 })) (fun t =>
      t.a == 0x01 && t.p.n == true && t.p.v == true && t.p.z == true && t.busCalls == 5) = true := by decide

/-- V50. -/
theorem test_asl_acc :
    holds (step ({ ram 0x0200 [(0x0200, 0x0A)] with a := 0x81 })) (fun t =>
      t.a == 0x02 && t.p.c == true && t.p.n == false && t.p.z == false && t.busCalls == 4) = true := by decide

/-- V58: the write of 21 comes before the write of 42. -/
theorem test_asl_zp_writes_twice :
    holds (step (ram 0x0200 [(0x0200, 0x06), (0x0201, 0x10), (0x0010, 0x21)])) (fun t =>
      t.peek 0x0010 == 0x42 && t.p.c == false && t.trace.reverse.drop 2 == [.read 0x0200 0x06, .read 0x0201 0x10, .read 0x0010 0x21, .write 0x0010 0x21, .write 0x0010 0x42]) = true := by decide

/-- V51. -/
theorem test_lsr_acc :
    holds (step ({ ram 0x0200 [(0x0200, 0x4A)] with a := 0x01 })) (fun t =>
      t.a == 0x00 && t.p.c == true && t.p.z == true && t.p.n == false) = true := by decide

/-- V59. -/
theorem test_rol_acc :
    holds (step ({ ram 0x0200 [(0x0200, 0x2A)] with a := 0x40, p := { noFlags with c := true } })) (fun t =>
      t.a == 0x81 && t.p.c == false && t.p.n == true) = true := by decide

/-- V53. -/
theorem test_ror_acc :
    holds (step ({ ram 0x0200 [(0x0200, 0x6A)] with a := 0x01, p := { noFlags with c := true } })) (fun t =>
      t.a == 0x80 && t.p.c == true && t.p.n == true) = true := by decide

/-- V54. -/
theorem test_inc_zp :
    holds (step (ram 0x0200 [(0x0200, 0xE6), (0x0201, 0x10), (0x0010, 0xFF)])) (fun t =>
      t.peek 0x0010 == 0x00 && t.p.z == true && t.trace.reverse.drop 2 == [.read 0x0200 0xE6, .read 0x0201 0x10, .read 0x0010 0xFF, .write 0x0010 0xFF, .write 0x0010 0x00]) = true := by decide

/-- V55. -/
theorem test_dec_absx :
    holds (step ({ ram 0x0200 [(0x0200, 0xDE), (0x0201, 0x34), (0x0202, 0x12)] with x := 0x02 })) (fun t =>
      t.peek 0x1236 == 0xFF && t.p.n == true && t.trace.reverse.drop 2 == [.read 0x0200 0xDE, .read 0x0201 0x34, .read 0x0202 0x12, .read 0x1236 0x00, .read 0x1236 0x00, .write 0x1236 0x00, .write 0x1236 0xFF]) = true := by decide

/-- V56. -/
theorem test_inx_wraps :
    holds (step ({ ram 0x0200 [(0x0200, 0xE8)] with x := 0xFF })) (fun t =>
      t.x == 0x00 && t.p.z == true && t.p.n == false) = true := by decide

/-- R197: Y = 10 gives 11. -/
theorem test_iny :
    holds (step ({ ram 0x0200 [(0x0200, 0xC8)] with y := 0x10 })) (fun t =>
      t.y == 0x11) = true := by decide

/-- R198: X = 00 gives FF, N = 1, Z = 0. -/
theorem test_dex_wraps :
    holds (step ({ ram 0x0200 [(0x0200, 0xCA)] with x := 0x00 })) (fun t =>
      t.x == 0xFF && t.p.n == true && t.p.z == false) = true := by decide

/-- V57. -/
theorem test_dey_wraps :
    holds (step ({ ram 0x0200 [(0x0200, 0x88)] with y := 0x00 })) (fun t =>
      t.y == 0xFF && t.p.n == true) = true := by decide

/-- V64: BCC at FFF0 with d = 7F goes to 0071 in 4 cycles. -/
theorem test_bcc_wraps :
    holds (step (ram 0xFFF0 [(0xFFF0, 0x90), (0xFFF1, 0x7F)])) (fun t =>
      t.pc == 0x0071 && t.busCalls == 6) = true := by decide

/-- R207: with C = 0 BCS is not taken, in 2 cycles. -/
theorem test_bcs_not_taken :
    holds (step (ram 0x0200 [(0x0200, 0xB0), (0x0201, 0x10)])) (fun t =>
      t.pc == 0x0202 && t.busCalls == 4) = true := by decide

/-- V63. -/
theorem test_beq_page_cross :
    holds (step ({ ram 0x02F0 [(0x02F0, 0xF0), (0x02F1, 0x20)] with p := { noFlags with z := true } })) (fun t =>
      t.pc == 0x0312 && t.busCalls == 6) = true := by decide

/-- V62. -/
theorem test_bne_backward_page_cross :
    holds (step (ram 0x0300 [(0x0300, 0xD0), (0x0301, 0xFA)])) (fun t =>
      t.pc == 0x02FC && t.busCalls == 6) = true := by decide

/-- V65. -/
theorem test_bmi_backward :
    holds (step ({ ram 0x1000 [(0x1000, 0x30), (0x1001, 0x80)] with p := { noFlags with n := true } })) (fun t =>
      t.pc == 0x0F82 && t.busCalls == 6) = true := by decide

/-- R211: BPL at 1000 with d = 7F goes to 1081 in 3 cycles. -/
theorem test_bpl_forward :
    holds (step (ram 0x1000 [(0x1000, 0x10), (0x1001, 0x7F)])) (fun t =>
      t.pc == 0x1081 && t.busCalls == 5) = true := by decide

/-- R212: with V = 1 BVC is not taken, in 2 cycles. -/
theorem test_bvc_not_taken :
    holds (step ({ ram 0x0200 [(0x0200, 0x50), (0x0201, 0x10)] with p := { noFlags with v := true } })) (fun t =>
      t.pc == 0x0202 && t.busCalls == 4) = true := by decide

/-- V66. -/
theorem test_bvs_taken :
    holds (step ({ ram 0x4000 [(0x4000, 0x70), (0x4001, 0x00)] with p := { noFlags with v := true } })) (fun t =>
      t.pc == 0x4002 && t.busCalls == 5) = true := by decide

/-- V70. -/
theorem test_jmp_abs :
    holds (step (ram 0x0200 [(0x0200, 0x4C), (0x0201, 0x34), (0x0202, 0x12)])) (fun t =>
      t.pc == 0x1234 && t.busCalls == 5) = true := by decide

/-- V67: JMP ($10FF) takes its high byte from $1000. -/
theorem test_jmp_indirect_page_quirk :
    holds (step (ram 0x0200 [(0x0200, 0x6C), (0x0201, 0xFF), (0x0202, 0x10), (0x10FF, 0x34), (0x1000, 0x12), (0x1100, 0x56)])) (fun t =>
      t.pc == 0x1234 && t.busCalls == 7) = true := by decide

/-- V68. -/
theorem test_jsr :
    holds (step ({ ram 0xC000 [(0xC000, 0x20), (0xC001, 0x00), (0xC002, 0x20)] with sp := 0xFF })) (fun t =>
      t.peek 0x01FF == 0xC0 && t.peek 0x01FE == 0x02 && t.sp == 0xFD && t.pc == 0x2000 && t.busCalls == 8) = true := by decide

/-- R313: a JSR whose last byte is the stack byte it pushes PCH to fetches that byte. -/
theorem test_jsr_reads_its_own_push :
    holds (step ({ ram 0x01FD [(0x01FD, 0x20), (0x01FE, 0x00), (0x01FF, 0x77)] with sp := 0xFF })) (fun t =>
      t.peek 0x01FF == 0x01 && t.pc == 0x0100) = true := by decide

/-- V69: after V68, RTS at 2000. -/
theorem test_rts :
    holds (step ({ ram 0x2000 [(0x2000, 0x60), (0x01FF, 0xC0), (0x01FE, 0x02)] with sp := 0xFD })) (fun t =>
      t.sp == 0xFF && t.pc == 0xC003 && t.busCalls == 8) = true := by decide

/-- V83: with S = 00 the byte goes to $0100 and S becomes FF. -/
theorem test_pha_wraps :
    holds (step ({ ram 0x0200 [(0x0200, 0x48)] with a := 0x11, sp := 0x00 })) (fun t =>
      t.peek 0x0100 == 0x11 && t.sp == 0xFF && t.busCalls == 5) = true := by decide

/-- V81. -/
theorem test_php_pushes_b3 :
    holds (step ({ ram 0x0200 [(0x0200, 0x08)] with sp := 0xFF, p := { noFlags with n := true, z := true, c := true } })) (fun t =>
      t.peek 0x01FF == 0xB3 && t.sp == 0xFE && t.busCalls == 5) = true := by decide

/-- E7: the pull of the round trip; A = 80, N = 1, Z = 0, S = FD. -/
theorem test_pla :
    holds (step ({ ram 0x0200 [(0x0200, 0x68), (0x01FD, 0x80)] with a := 0x00, sp := 0xFC, p := { noFlags with z := true } })) (fun t =>
      t.a == 0x80 && t.p.n == true && t.p.z == false && t.sp == 0xFD && t.busCalls == 6) = true := by decide

/-- V82. -/
theorem test_plp_c3 :
    holds (step ({ ram 0x0200 [(0x0200, 0x28), (0x01FF, 0xC3)] with sp := 0xFE, p := { noFlags with d := true, i := true } })) (fun t =>
      t.p.n == true && t.p.v == true && t.p.d == false && t.p.i == false && t.p.z == true && t.p.c == true && t.sp == 0xFF && t.busCalls == 6) = true := by decide

/-- V86. -/
theorem test_clc :
    holds (step ({ ram 0x0200 [(0x0200, 0x18)] with p := { noFlags with c := true } })) (fun t =>
      t.p.c == false && t.busCalls == 4) = true := by decide

/-- R235. -/
theorem test_sec :
    holds (step (ram 0x0200 [(0x0200, 0x38)])) (fun t =>
      t.p.c == true) = true := by decide

/-- R236. -/
theorem test_cli :
    holds (step ({ ram 0x0200 [(0x0200, 0x58)] with p := { noFlags with i := true } })) (fun t =>
      t.p.i == false) = true := by decide

/-- R237. -/
theorem test_sei :
    holds (step (ram 0x0200 [(0x0200, 0x78)])) (fun t =>
      t.p.i == true) = true := by decide

/-- R238. -/
theorem test_cld :
    holds (step ({ ram 0x0200 [(0x0200, 0xD8)] with p := { noFlags with d := true } })) (fun t =>
      t.p.d == false) = true := by decide

/-- V87. -/
theorem test_sed :
    holds (step (ram 0x0200 [(0x0200, 0xF8)])) (fun t =>
      t.p.d == true) = true := by decide

/-- V88. -/
theorem test_clv :
    holds (step ({ ram 0x0200 [(0x0200, 0xB8)] with p := { noFlags with v := true } })) (fun t =>
      t.p.v == false) = true := by decide

/-- V89: NOP reads 0200 and 0201. -/
theorem test_nop :
    holds (step (ram 0x0200 [(0x0200, 0xEA), (0x0201, 0x12)])) (fun t =>
      t.pc == 0x0201 && t.trace.reverse.drop 2 == [.read 0x0200 0xEA, .read 0x0201 0x12]) = true := by decide

/-- V84: BRK at 0300 pushes 03, 02 and 31. -/
theorem test_brk :
    holds (step ({ ram 0x0300 [(0x0300, 0x00), (0x0301, 0xEA), (0xFFFF, 0x90)] with sp := 0xFD, p := { noFlags with c := true } })) (fun t =>
      t.peek 0x01FD == 0x03 && t.peek 0x01FC == 0x02 && t.peek 0x01FB == 0x31 && t.sp == 0xFA && t.p.i == true && t.p.c == true && t.pc == 0x9000 && t.busCalls == 9) = true := by decide

/-- V85: after V84, RTI at 9000. -/
theorem test_rti :
    holds (step ({ ram 0x9000 [(0x9000, 0x40), (0x01FD, 0x03), (0x01FC, 0x02), (0x01FB, 0x31)] with sp := 0xFA, p := { noFlags with i := true } })) (fun t =>
      t.p.c == true && t.p.i == false && t.sp == 0xFD && t.pc == 0x0302 && t.busCalls == 8) = true := by decide

/-- R245, V90: the opcode 02 at 0202 ends `run` with the total so far; one bus read, PC at the opcode. -/
theorem test_illegal :
    holds (step ({ ram 0x0202 [(0x0202, 0x02)] with runCycles := 2, a := 0x07 })) (fun t =>
      t.pc == 0x0202 && t.a == 0x07 && t.fault == some (.illegalOpcode 0x02 0x0202) && t.runState == .halted && t.returned == some 2 && t.trace.reverse.drop 2 == [.read 0x0202 0x02]) = true := by decide

/-- E4: NOP, then Continue with the Irq latch set and I = 0: entry, 9 cycles in all. -/
theorem test_irq_entry_at_the_check_point :
    holds (step ({ ram 0x8000 [(0x8000, 0xEA), (0xFFFF, 0x90)] with sp := 0xFF, p := { noFlags with c := true }, irqPending := true, budget := 1, params := { Params.atReset with period := 1 }, replies := [{ signal := .cont, raisesIrq := false, raisesNmi := false }] })) (fun t =>
      t.peek 0x01FF == 0x80 && t.peek 0x01FE == 0x01 && t.peek 0x01FD == 0x21 && t.sp == 0xFC && t.p.i == true && t.pc == 0x9000 && t.runCycles == 9 && t.irqPending == false) = true := by decide

/-- E5: a latched Nmi is served before the instruction, with I = 1; 7 cycles, budget 2 left. -/
theorem test_nmi_ignores_i :
    holds (step ({ ram 0x8000 [(0x8000, 0xEA), (0xFFFB, 0xA0)] with sp := 0xFF, p := { noFlags with i := true }, nmiPending := true, budget := 9, params := { Params.atReset with period := 9 } })) (fun t =>
      t.peek 0x01FF == 0x80 && t.peek 0x01FE == 0x00 && t.peek 0x01FD == 0x24 && t.sp == 0xFC && t.pc == 0xA000 && t.runCycles == 7 && t.budget == 2) = true := by decide

/-- E6: NOP, then the poll answers Irq with I = 1: the request is dropped, nothing is pushed. -/
theorem test_irq_answer_dropped :
    holds (step ({ ram 0x8000 [(0x8000, 0xEA)] with p := { noFlags with i := true }, budget := 2, params := { Params.atReset with period := 2 }, replies := [{ signal := .irq, raisesIrq := false, raisesNmi := false }] })) (fun t =>
      t.pc == 0x8001 && t.sp == 0xFD && t.runCycles == 2 && t.budget == 2 && t.irqPending == false && t.mem == [(0x8000, 0xEA)]) = true := by decide

/-- E6: NOP, then the poll answers Quit: `run` returns 4. -/
theorem test_quit_returns :
    holds (step ({ ram 0x8001 [(0x8001, 0xEA)] with runCycles := 2, budget := 2, params := { Params.atReset with period := 2 }, replies := [{ signal := .quit, raisesIrq := false, raisesNmi := false }] })) (fun t =>
      t.pc == 0x8002 && t.returned == some 4 && t.runState == .halted && t.budget == 2) = true := by decide

/-! ### Reset, `run` and the host's operations -/

/-- E3: [FFFC] = 00, [FFFD] = 80. `reset` reads FFFC, then FFFD, and sets PC = 8000 and I = 1. -/
theorem test_reset_reads_the_vector :
    holds (construct Params.atReset (Callbacks.ram [(0xFFFD, 0x80)])) (fun s =>
      holds (hostReset ⟨1, 2, 3, noFlags⟩ s) (fun t =>
        t.pc == 0x8000 && t.p.i && t.sp == 0xFD && t.a == 1 && t.trace.reverse == [.read 0xFFFC 0x00, .read 0xFFFD 0x80])) =
      true := by decide
/-- R7, R62, R63: a block constructed over a bus that is no RAM; its first two answers are the reset vector. -/
theorem test_reset_on_a_bus_that_is_no_ram :
    holds (construct Params.atReset { mem := [], answers := [some 0x34, some 0x12, some 0xEA], replies := [] }) (fun s =>
      holds (hostReset ⟨0, 0, 0, noFlags⟩ s) (fun t => t.pc == 0x1234 && t.answers == [some 0xEA])) = true := by decide
/-- V92: after construction, with no `reset`, `run` returns 0 with NotReset. -/
theorem test_run_before_reset :
    holds (construct Params.atReset (Callbacks.ram [])) (fun s => holds (step s) (fun t =>
      t.fault == some .notReset && t.returned == some 0 && t.busCalls == 0)) = true := by decide
/-- V91: a second `run` after a fault returns 0 with no bus call. -/
theorem test_run_after_a_fault :
    holds (step { State.reset with fault := some (.illegalOpcode 0x02 0x0202) }) (fun t =>
      t.returned == some 0 && t.busCalls == 2) = true := by decide
/-- E1 from State.reset with the word of the table placed: A9 00 gives A = 0, Z = 1, N = 0, in 2 cycles. -/
theorem test_first_step_after_reset :
    holds (step ({ State.reset with a := 5 }.withFetchWord 16 0x00A9)) (fun t =>
      t.a == 0 && t.p.z && !t.p.n && t.runCycles == 2 && t.pc == 2) = true := by decide
/-- R62: a listed answer comes before the memory; R78: the later bytes come from memory. -/
theorem test_listed_answer_first :
    holds (step { ram 0x200 [(0x200, 0xEA), (0x201, 0x44)] with answers := [some 0xA9] }) (fun t => t.a == 0x44) = true := by
  decide

/-! ### Witnesses: the hypotheses of each statement, met together -/

/-- A block inside `run` with `LDA #$80` at 0x0200. -/
def loading : State := ram 0x0200 [(0x200, 0xA9), (0x201, 0x80)]

theorem witness_DecodingAnEncodingGivesTheInstructionBack : wellFormed (.sta (.absx 0xFFFF)) = true := by decide
theorem witness_EncodingADecodingGivesTheBytesBack :
    decode [0xBD, 0xFF, 0x20, 0x77] = .ok (.lda (.mem (.absx 0x20FF)), [0x77]) := by decide
theorem witness_StepRunsTheDecodedInstruction :
    loading.runState = .running ∧ loading.nmiPending = false ∧
    decode [(fetch loading).1, (fetch (afterFetches 1 loading)).1, (fetch (afterFetches 2 loading)).1] =
      .ok (.lda (.imm 0x80), [0x00]) := by decide
/-- A host whose memory at PC is not what its bus answers. -/
theorem witness_StepRunsTheBytesTheBusAnswersAtPc :
    let s := { loading with answers := [some 0xE8] }
    s.runState = .running ∧ s.nmiPending = false ∧
    decode [s.answerAfter 0 s.pc, s.answerAfter 1 (s.pc + 1#16), s.answerAfter 2 (s.pc + 2#16)] =
      .ok (.inx, [0x80, 0x00]) := by decide
theorem witness_StepFromHaltedBeginsARun :
    loading.runState = .running ∧ State.reset.runState = .halted ∧ holds (hostRun State.reset) (fun u => u.runState == .running) = true ∧
    holds (hostRun { State.reset with resetDone := false }) (fun u => u.runState == .halted) = true := by decide
theorem witness_AnInstructionsCostIsCharged :
    { loading with budget := 3 }.runState = .running ∧
    (({ loading with budget := 3 }.busCalls - 0 : Nat) : Int) < { loading with budget := 3 }.budget ∧
    State.reset.runState = .halted := by decide
/-- A cost that just spends the budget: the host is polled, and Quit ends `run` with the total, the cost counted in. -/
theorem test_a_spent_budget_polls :
    (fun u : State => u.returned == some 9 && u.budget == 65536 && u.trace.head? == some (.poll .quit))
      (afterInstruction 1
        { loading with
          busCalls := 4, runCycles := 6, budget := 3
          replies := [{ signal := .quit, raisesIrq := false, raisesNmi := false }] }) = true := by decide
theorem loading_inv : RunInv loading := by constructor <;> decide
theorem witness_EveryStepKeepsTheInvariant : RunInv loading ∧ runs (step loading) = true := ⟨loading_inv, by decide⟩
/-- The invariant at its lower edge: PERIOD = 1 and a budget of -6, as an entry at a check point leaves it. -/
theorem witness_RunInv_low : RunInv { loading with params := { Params.atReset with period := 1 }, budget := -6 } := by
  constructor <;> decide
theorem witness_TheHostsOperationsKeepTheInvariant :
    Memory.wf [] = true ∧ runs (construct Params.atReset (Callbacks.ram [])) = true ∧ RunInv State.reset ∧
    runs (hostReset ⟨0, 0, 0, noFlags⟩ State.reset) = true := ⟨by decide, by decide, by constructor <;> decide, by decide⟩
theorem witness_EveryStepOnlyExtendsTheTrace : runs (step loading) = true := by decide
theorem witness_EveryStepTakesTwoToSevenBusCalls :
    loading.runState = .running ∧ loading.fault = none ∧ loading.nmiPending = false ∧
    holds (step loading) (fun t => t.fault == none) = true ∧
    holds (step { loading with nmiPending := true }) (fun t => t.fault == none) = true := by decide
theorem witness_ResetLoadsThePcAndStackPointer : loading.runState = .running ∧ State.reset.runState = .halted := by decide
theorem witness_RunBeforeResetFaults :
    { State.reset with resetDone := false }.runState = .halted ∧ { State.reset with resetDone := false }.resetDone = false ∧
    runs (hostReset ⟨0, 0, 0, noFlags⟩
      { State.reset with resetDone := false, fault := some .notReset, returned := some 0 }) = true := by decide
theorem witness_AnIllegalOpcodeFaultsPrecisely :
    (ram 0x200 [(0x200, 0x02)]).runState = .running ∧ (ram 0x200 [(0x200, 0x02)]).nmiPending = false ∧
    busAnswer 0x200 (ram 0x200 [(0x200, 0x02)]) ∈ illegalOpcodes := by decide
theorem witness_AFaultIsSticky :
    { State.reset with fault := some .notReset }.runState = .halted ∧
    { State.reset with fault := some .notReset }.resetDone = true ∧
    { State.reset with fault := some .notReset }.fault = some .notReset ∧
    runs (hostReset ⟨0, 0, 0, noFlags⟩ { State.reset with fault := some .notReset }) = true := by decide
theorem witness_ConstructionNeedsAPositivePeriod :
    { Params.atReset with period := 0 }.period = 0 ∧ 1 ≤ { Params.atReset with period := 1 }.period := by decide
theorem witness_MemoryIsRam : Memory.wf [(0, 1), (0xFFFF, 2)] = true ∧ (0xFFFF : Word) ≠ 0 := by decide
theorem witness_CanonicalMemoriesThatReadAlikeAreEqual :
    Memory.wf (Memory.put (Memory.put [] 5 1) 5 0) = true ∧ Memory.wf [] = true ∧
    ∀ a : Word, (Memory.put (Memory.put [] 5 1) 5 0).read a.toNat = Memory.read [] a.toNat :=
  ⟨by decide, by decide, fun _ => rfl⟩
theorem witness_BusAndStackPrimitives : loading.RamBus := rfl
/-- The two sides of the page test: lo + idx = 255 and 256. -/
theorem witness_PageCrossingIsALowByteCarry :
    otherPage (0x20FE + zext16 1) 0x20FE = false ∧ otherPage (0x20FF + zext16 1) 0x20FF = true := by decide
theorem witness_EveryInstructionTakesItsCycles :
    wellFormed (.lda (.mem (.absx 0x20FF))) = true ∧ (Instr.lda (.mem (.absx 0x20FF))).documented = true := by decide
theorem witness_StoresWriteOneByteOfMemory :
    Memory.wf loading.mem = true ∧ (Instr.stx (.zp 0xFF), loading.x) ∈
      [(Instr.sta (.zp 0xFF), loading.a), (.stx (.zp 0xFF), loading.x), (.sty (.zp 0xFF), loading.y)] ∧
    (0x0100 : Word) ≠ effectiveAddress (.zp 0xFF) loading := by decide
theorem witness_AdcAndSbcWriteAAndFourFlags :
    (Instr.sbc (.imm 1), sbcSum loading 1) ∈
      [(Instr.adc (.imm 1), adcSum loading 1), (.sbc (.imm 1), sbcSum loading 1)] := by decide
theorem witness_BinaryAdcAddsWithCarry : loading.p.d = false := by decide
theorem witness_BinarySbcSubtractsWithBorrow : loading.p.d = false := by decide
/-- Decimal mode with A = 0x99, the largest valid BCD byte. -/
def decimal : State := { loading with a := 0x99, p := { noFlags with d := true } }
theorem witness_DecimalAdcAddsBcd :
    decimal.p.d = true ∧ validBcd decimal.a = true ∧ validBcd (readOperand (.imm 0x99) decimal).1 = true := by decide
theorem witness_DecimalSbcSubtractsBcd :
    decimal.p.d = true ∧ validBcd decimal.a = true ∧ validBcd (readOperand (.imm 0x00) decimal).1 = true := by decide
theorem witness_DecimalArithmeticOfEveryOperand :
    { decimal with params := { Params.atReset with decimalMode := .draw } }.p.d = true ∧
    { decimal with params := { Params.atReset with decimalMode := .draw } }.params.decimalMode = .draw ∧
    ¬ (validBcd decimal.a = true ∧ validBcd (readOperand (.imm 0x0A) decimal).1 = true) ∧
    decimal.params.decimalMode = .reference := by decide
theorem witness_LogicWritesAAndZN :
    (Instr.eor (.imm 7), loading.a ^^^ 7) ∈
      [(Instr.and (.imm 7), loading.a &&& 7), (.ora (.imm 7), loading.a ||| 7), (.eor (.imm 7), loading.a ^^^ 7)] := by decide
theorem witness_ComparesSetCZNOnly :
    (Instr.cpy (.imm 7), loading.y) ∈
      [(Instr.cmp (.imm 7), loading.a), (.cpx (.imm 7), loading.x), (.cpy (.imm 7), loading.y)] := by decide
theorem witness_ShiftsActOnTheAccumulator :
    (Instr.lsr .acc, loading.a.toNat / 2, decide (loading.a.toNat % 2 = 1)) ∈
      [(Instr.asl .acc, loading.a.toNat * 2 % 256, decide (128 ≤ loading.a.toNat)),
       (.lsr .acc, loading.a.toNat / 2, decide (loading.a.toNat % 2 = 1))] := by decide
theorem witness_ReadModifyWritesOneByteOfMemory :
    Memory.wf loading.mem = true ∧ (0x0101 : Word) ≠ effectiveAddress (.abs 0x0100) loading ∧
    (Instr.dec (.abs 0x0100), (fun v : Nat => (v + 255) % 256), loading.p.c) ∈
      [(Instr.inc (.abs 0x0100), (fun v : Nat => (v + 1) % 256), loading.p.c),
       (.dec (.abs 0x0100), (fun v : Nat => (v + 255) % 256), loading.p.c)] :=
  ⟨by decide, by decide, .tail _ (.head _)⟩
/-- A branch not taken, one taken to PC + 127 in its own page (PC = 0x0280), and one taken to PC - 128 on another. -/
theorem witness_BranchesTestOneFlag :
    loading.p.c = false ∧ (Instr.bcs 0x7F, loading.p.c) ∈ [(Instr.bcc 0x7F, !loading.p.c), (.bcs 0x7F, loading.p.c)] ∧
    hi (BitVec.ofInt 16 (0x0280 + (0x7F : Byte).toInt)) = hi 0x0280 ∧
    hi (BitVec.ofInt 16 (0x0200 + (0x80 : Byte).toInt)) ≠ hi 0x0200 := by decide
/-- The two sides of the page quirk: a pointer ending in 0xFF and one ending in 0xFE. -/
theorem witness_JmpTakesItsTarget : (lo (0x10FF : Word)).toNat = 255 ∧ ¬ (lo (0x10FE : Word)).toNat = 255 := by decide
theorem witness_RamBusWithCanonicalMemory : loading.RamBus ∧ Memory.wf loading.mem = true := ⟨rfl, by decide⟩
theorem witness_StackInstructionsPushAndPull :
    (Instr.php, packP loading.p true) ∈ [(Instr.pha, loading.a), (.php, packP loading.p true)] := by decide
theorem witness_FlagInstructionsChangeOneFlag :
    (Instr.sec, { loading.p with c := true }) ∈
      [(Instr.clc, { loading.p with c := false }), (.sec, { loading.p with c := true })] := by decide
theorem witness_ALatchedNmiIsServedFirst :
    { loading with nmiPending := true }.runState = .running ∧ { loading with nmiPending := true }.nmiPending = true := by decide
/-- A host that answers the next poll with `signal`, at a check point (budget 0). -/
def polled (signal : PollSignal) (irq : Bool) : State :=
  { loading with
    budget := 0
    irqPending := irq
    replies := [{ signal := signal, raisesIrq := false, raisesNmi := false }] }
/-- Budgets 1 and 0, and every answer, with and without a pending Irq and with I = 0 and 1. -/
theorem witness_TheCheckPointActsOnThePoll :
    0 < { loading with budget := 1 }.budget ∧ (polled .quit false).budget ≤ 0 ∧
    ((polled .quit true).replies.headD default).signal = .quit ∧
    ((polled .nmi true).replies.headD default).signal = .nmi ∧
    ((polled .irq false).replies.headD default).signal = .irq ∧ (polled .irq false).p.i = false ∧
    ((polled .cont true).replies.headD default).signal = .cont ∧ (polled .cont true).irqPending = true ∧
    (polled .cont false).irqPending = false ∧ State.reset.p.i = true := by decide
theorem witness_FlagsChangeOnlyWhereTheTableSays :
    runs (exec (.and (.imm 1)) loading) = true ∧ (flagsWritten (.and (.imm 1))).c = false ∧
    (flagsWritten .clc).n = false ∧ (flagsWritten .txs).z = false := by decide
theorem witness_RegistersAndMemoryChangeOnlyByTheirInstructions :
    runs (exec (.ror (.mem (.zp 0))) loading) = true ∧ writesA (.ror (.mem (.zp 0))) = false ∧
    writesX .tay = false ∧ writesY .tax = false ∧ writesSp .tsx = false ∧ writesMemory (.ror .acc) = false := by decide
theorem witness_InstructionsLeaveTheSchedulerAlone : (Instr.brk 0).documented = true := by decide

end Sys2Proof.Tests
end

section
/-! The bus and stack primitives in the numbers of the spec (R10, R11, R33, R34, R62): the stack's addresses and the moves
of S written as integers, and a read commutes with a write of S. -/

namespace Sys2Proof.Machine

/-- The byte of a read as the listed answer or memory's byte (R62). -/
theorem answerAfter_zero (s : State) (a : Word) : s.answerAfter 0 a = s.answers.head?.join.getD (s.peek a) := by
  rw [State.answerAfter, List.head?_eq_getElem?]

theorem stackAddr_eq_ofNat (p : Byte) : stackAddr p = BitVec.ofNat 16 (256 + p.toNat) := by
  rw [← stackAddr_toNat, BitVec.ofNat_toNat, BitVec.setWidth_eq]

/-- S goes down by 1 modulo 256, so that 0 becomes 255 (R33). -/
theorem sub_one_eq_ofNat (p : Byte) : p - 1#8 = BitVec.ofNat 8 (p.toNat + 255) := by bv_omega

/-- S goes up by 1 modulo 256, so that 255 becomes 0 (R33). -/
theorem add_one_eq_ofNat (p : Byte) : p + 1#8 = BitVec.ofNat 8 (p.toNat + 1) := by bv_omega

theorem memRead_setSp (a : Word) (s : State) (v : Byte) :
    memRead a (s.setSp v) = ((memRead a s).1, (memRead a s).2.setSp v) := rfl

theorem memWrite_eq (a : Word) (v : Byte) (s : State) :
    memWrite a v s = { s.afterCycles 0 [.write a v] with mem := s.mem.put a v } := rfl

theorem push_eq (v : Byte) (s : State) :
    push v s = (memWrite (BitVec.ofNat 16 (256 + s.sp.toNat)) v s).setSp (BitVec.ofNat 8 (s.sp.toNat + 255)) := by
  rw [push, stackAddr_eq_ofNat, sub_one_eq_ofNat]

theorem pull_eq (s : State) :
    pull s =
      let sp' := BitVec.ofNat 8 (s.sp.toNat + 1)
      let r := memRead (BitVec.ofNat 16 (256 + sp'.toNat)) s
      (r.1, r.2.setSp sp') := by
  rw [pull, memRead_setSp, stackAddr_eq_ofNat, add_one_eq_ofNat]

/-- Settles O20: each primitive by its equation; `afterCycles` moves the count of reads on. -/
theorem busAndStackPrimitives : Obligations.BusAndStackPrimitives := by
  intro s
  refine ⟨fun a => ⟨?_, ?_⟩, fun n events a => ?_, fun h n a => answerAfter_ram h n a, fun a v => memWrite_eq a v s,
    rfl, rfl, fun v => push_eq v s, ?_, ?_⟩
  · rw [memRead_eq, answerAfter_zero]
  · rw [memRead_eq, State.readEvent]
  · rw [busAnswer_eq, afterCycles_answerAfter, Nat.add_zero]
  · rw [pull_eq]
  · rw [pull_eq]; rfl

end Sys2Proof.Machine
end

section
/-! The record of calls (R21, R68, R69): every instruction, every part of the scheduler and every step `Extends` it. -/

namespace Sys2Proof.Machine

/-- What touches neither the trace nor the count leaves an extension one. -/
theorem Extends.then_same {s t u : State} (h : Extends s t) (ht : u.trace = t.trace) (hc : u.busCalls = t.busCalls) :
    Extends s u :=
  h.trans (.of_same ht hc)

theorem spendDraws_extends (s : State) : Extends s s.spendDraws := by
  unfold State.spendDraws
  split
  · exact .of_same rfl rfl
  · exact .refl s

theorem sumWith_extends (sum : State → Byte → Sum) (m : ReadMode) (s : State) : Extends s (sumWith sum m s) :=
  ((readOperand_extends m s).trans (spendDraws_extends _)).then_same rfl rfl

theorem beforePull_extends (s : State) : Extends s (beforePull s) :=
  (impliedCycle_extends s).trans (dummyRead_extends ..)

/-- JSR: the dummy read of the stack, the two pushes and the read of the target's high byte (R123). -/
theorem execJsr_extends {w : Word} {s t : State} (h : execJsr w s = .next t) : Extends s t := by
  cases h
  exact (((dummyRead_extends (stackAddr s.sp) s).trans (pushPc_extends _)).trans (memRead_extends _ _)).then_same rfl rfl

/-- RTS: two dummy reads, the two pulls and the dummy read at the pulled address (R124). -/
theorem execRts_extends {s t : State} (h : execRts s = .next t) : Extends s t := by
  cases h
  exact (((beforePull_extends s).trans (pullWord_extends _)).trans (dummyRead_extends _ _)).then_same rfl rfl

/-- Each instruction only adds to the record. The cases are grouped by the bus accesses the instruction makes. -/
theorem exec_extends {i : Instr} {s t : State} (h : exec i s = .next t) : Extends s t := by
  cases i
  case lda m | ldx m | ldy m | and m | ora m | eor m | cmp m | cpx m | cpy m | bit m =>
    cases h; exact (readOperand_extends m s).then_same rfl rfl
  case adc m | sbc m => cases h; exact sumWith_extends _ m s
  case sta m | stx m | sty m => cases h; exact writeOperand_extends m _ s
  case asl m | lsr m | rol m | ror m => cases h; exact (modifyOperand_extends m _ s).then_same rfl rfl
  case inc m | dec m => cases h; exact (modifyMemory_extends m _ s).then_same rfl rfl
  case tax | tay | txa | tya | tsx | txs | inx | iny | dex | dey | clc | sec | cli | sei | cld | sed | clv | nop =>
    cases h; exact (impliedCycle_extends s).then_same rfl rfl
  case bcc d | bcs d | beq d | bne d | bmi d | bpl d | bvc d | bvs d => cases h; exact branch_extends _ d s
  case jmp m =>
    cases m with
    | abs w => cases h; exact .of_same rfl rfl
    | ind p => cases h; exact (readPair_extends p (nextInPage p) s).then_same rfl rfl
  case jsr w => exact execJsr_extends h
  case rts => exact execRts_extends h
  case pha | php => cases h; exact (impliedCycle_extends s).trans (push_extends ..)
  case pla | plp => cases h; exact ((beforePull_extends s).trans (pull_extends _)).then_same rfl rfl
  case brk => cases h; exact takeInterrupt_extends ..
  case rti => cases h; exact (beforePull_extends s).trans (returnFromInterrupt_extends _)
  case illegal => cases h; exact .of_same rfl rfl

theorem fetchInstr_extends (s : State) : Extends s (fetchInstr s).2 := by
  have opcode := fetch_extends s
  unfold fetchInstr
  dsimp only
  split
  · exact opcode
  · exact opcode.trans (fetch_extends _)
  · exact (opcode.trans (fetch_extends _)).trans (fetch_extends _)

theorem enterRun_extends (s : State) : Extends s (enterRun s) := by
  unfold enterRun
  repeat' split
  all_goals exact .of_same rfl rfl

theorem chargedEntry_extends (ty : IntType) (s : State) : Extends s (chargedEntry ty s) :=
  (interruptEntry_extends ty s).then_same rfl rfl

/-- A poll is recorded, and is no bus call (R21). -/
theorem poll_extends (s : State) : Extends s (poll s).2 := ⟨[.poll (nextReply s).signal], rfl, rfl⟩

theorem serviceIrq_extends (s : State) : Extends s (serviceIrq s) := by
  have consumed : Extends s { s with irqPending := false } := .of_same rfl rfl
  unfold serviceIrq
  split
  · exact consumed
  · exact consumed.trans (chargedEntry_extends ..)

theorem actOnSignal_extends (h : PollSignal) (s : State) : Extends s (actOnSignal h s) := by
  cases h with
  | quit => exact .of_same rfl rfl
  | nmi => exact (chargedEntry_extends .nmi s).then_same rfl rfl
  | irq => exact serviceIrq_extends s
  | cont =>
    dsimp only [actOnSignal]
    split
    · exact serviceIrq_extends s
    · exact .refl s

theorem checkPoint_extends (s : State) : Extends s (checkPoint s) := by
  unfold checkPoint
  split
  · have replenished : Extends s { s with budget := s.params.period } := .of_same rfl rfl
    exact (replenished.trans (poll_extends _)).trans (actOnSignal_extends ..)
  · exact .refl s

theorem finishStep_extends (calls : Nat) (s : State) : Extends s (finishStep calls s) :=
  (Extends.of_same (t := charge (s.busCalls - calls) s) rfl rfl).trans (checkPoint_extends _)

theorem nmiStep_extends (s : State) : Extends s (nmiStep s) :=
  ((Extends.of_same (t := { s with nmiPending := false }) rfl rfl).trans (interruptEntry_extends .nmi _)).trans
    (finishStep_extends ..)

theorem afterInstruction_extends (calls : Nat) (s : State) : Extends s (afterInstruction calls s) := by
  unfold afterInstruction
  split
  · exact .refl s
  · exact finishStep_extends ..

/-- What a step that answers a next state can do (R267): the host's call of `run` that returns at once, an Nmi entry, or
an instruction with what follows it. -/
theorem step_cases {s t : State} (h : step s = .next t) :
    ((enterRun s).runState = .halted ∧ t = enterRun s) ∨
    ((enterRun s).runState = .running ∧ (enterRun s).nmiPending = true ∧ t = nmiStep (enterRun s)) ∨
    ((enterRun s).runState = .running ∧ (enterRun s).nmiPending = false ∧
      ∃ u, exec (fetchInstr (enterRun s)).1 (fetchInstr (enterRun s)).2 = .next u ∧
        t = afterInstruction (enterRun s).busCalls u) := by
  have running : ¬ (enterRun s).runState = .halted → (enterRun s).runState = .running := by
    cases (enterRun s).runState <;> simp
  unfold step at h
  dsimp only at h
  split at h
  case isTrue halted => cases h; exact .inl ⟨halted, rfl⟩
  case isFalse inside =>
    split at h
    case isTrue nmi => cases h; exact .inr (.inl ⟨running inside, nmi, rfl⟩)
    case isFalse quiet =>
      split at h
      case h_1 u hu => cases h; exact .inr (.inr ⟨running inside, by simpa using quiet, u, hu, rfl⟩)
      case h_2 | h_3 => cases h

/-- Settles O12: each of the three things a step can do (`step_cases`) extends the record. -/
theorem everyStepOnlyExtendsTheTrace : Obligations.EveryStepOnlyExtendsTheTrace := by
  intro s t h
  change Extends s t
  have entered := enterRun_extends s
  obtain ⟨-, rfl⟩ | ⟨-, -, rfl⟩ | ⟨-, -, u, hu, rfl⟩ := step_cases h
  · exact entered
  · exact entered.trans (nmiStep_extends _)
  · have fetched := entered.trans (fetchInstr_extends _)
    exact (fetched.trans (exec_extends hu)).trans (afterInstruction_extends ..)

end Sys2Proof.Machine
end

section
/-! What an instruction leaves alone (R30, R48, R110, R269): the scheduler, the registers and memory it is not listed as
writing, and the flags it is not listed as writing. -/

namespace Sys2Proof.Machine

theorem spendDraws_kept (s : State) : SchedulerKept s s.spendDraws := by
  unfold State.spendDraws
  split
  · exact ⟨rfl, rfl, rfl, rfl, rfl, rfl, rfl, rfl, rfl, rfl⟩
  · exact .refl s

theorem sumWith_kept (sum : State → Byte → Sum) (m : ReadMode) (s : State) : SchedulerKept s (sumWith sum m s) :=
  ((readOperand_kept s m).trans (spendDraws_kept _)).trans ((setA_kept _ _).trans (setP_kept _ _))

theorem beforePull_kept (s : State) : SchedulerKept s (beforePull s) :=
  (impliedCycle_kept s).trans (dummyRead_kept _ _)

theorem execJsr_kept {w : Word} {s t : State} (h : execJsr w s = .next t) : SchedulerKept s t := by
  cases h
  exact ((dummyRead_kept s (stackAddr s.sp)).trans (pushPc_kept _)).trans ((memRead_kept _ _).trans (setPc_kept _ _))

theorem execRts_kept {s t : State} (h : execRts s = .next t) : SchedulerKept s t := by
  cases h
  exact ((beforePull_kept s).trans (pullWord_kept _)).trans ((dummyRead_kept _ _).trans (setPc_kept _ _))

/-- A documented instruction stays clear of the scheduler (R269). The cases are grouped by the bus accesses made and the
registers written after them. -/
theorem exec_kept {i : Instr} {s t : State} (hi : i.documented = true) (h : exec i s = .next t) : SchedulerKept s t := by
  cases i
  case lda m | and m | ora m | eor m =>
    cases h; exact (readOperand_kept s m).trans ((setA_kept _ _).trans (setP_kept _ _))
  case ldx m => cases h; exact (readOperand_kept s m).trans ((setX_kept _ _).trans (setP_kept _ _))
  case ldy m => cases h; exact (readOperand_kept s m).trans ((setY_kept _ _).trans (setP_kept _ _))
  case cmp m | cpx m | cpy m | bit m => cases h; exact (readOperand_kept s m).trans (setP_kept _ _)
  case adc m | sbc m => cases h; exact sumWith_kept _ m s
  case sta m | stx m | sty m => cases h; exact writeOperand_kept s m _
  case asl m | lsr m | rol m | ror m => cases h; exact (modifyOperand_kept s m _).trans (setP_kept _ _)
  case inc m | dec m => cases h; exact (modifyMemory_kept s m _).trans (setP_kept _ _)
  case tax | tsx | inx | dex => cases h; exact (impliedCycle_kept s).trans ((setX_kept _ _).trans (setP_kept _ _))
  case tay | iny | dey => cases h; exact (impliedCycle_kept s).trans ((setY_kept _ _).trans (setP_kept _ _))
  case txa | tya => cases h; exact (impliedCycle_kept s).trans ((setA_kept _ _).trans (setP_kept _ _))
  case txs => cases h; exact (impliedCycle_kept s).trans (setSp_kept _ _)
  case clc | sec | cli | sei | cld | sed | clv => cases h; exact (impliedCycle_kept s).trans (setP_kept _ _)
  case nop => cases h; exact impliedCycle_kept s
  case bcc d | bcs d | beq d | bne d | bmi d | bpl d | bvc d | bvs d => cases h; exact branch_kept s _ d
  case jmp m =>
    cases m with
    | abs w => cases h; exact setPc_kept s w
    | ind p => cases h; exact (readPair_kept s p (nextInPage p)).trans (setPc_kept _ _)
  case jsr w => exact execJsr_kept h
  case rts => exact execRts_kept h
  case pha | php => cases h; exact (impliedCycle_kept s).trans (push_kept _ _)
  case pla => cases h; exact ((beforePull_kept s).trans (pull_kept _)).trans ((setA_kept _ _).trans (setP_kept _ _))
  case plp => cases h; exact ((beforePull_kept s).trans (pull_kept _)).trans (setP_kept _ _)
  case brk => cases h; exact takeInterrupt_kept s _ _
  case rti => cases h; exact (beforePull_kept s).trans (returnFromInterrupt_kept _)
  case illegal => cases hi

/-- No meaning ends in a fault or a refusal. -/
theorem exec_completes (i : Instr) (s : State) : ∃ t, exec i s = .next t := by
  cases i
  case jmp m => cases m <;> exact ⟨_, rfl⟩
  all_goals exact ⟨_, rfl⟩

/-- Settles O60: every instruction completes, and the frame of a documented one is `SchedulerKept`. -/
theorem instructionsLeaveTheSchedulerAlone : Obligations.InstructionsLeaveTheSchedulerAlone := by
  intro i s hi
  obtain ⟨t, ht⟩ := exec_completes i s
  exact ⟨t, ht, (exec_kept hi ht).eq⟩

/-- From `s` to `t` only what instruction `i` is listed as writing has changed: the register columns of R30 and the
memory writers of R110. -/
structure WritesOnly (i : Instr) (s t : State) : Prop where
  a : writesA i = false → t.a = s.a
  x : writesX i = false → t.x = s.x
  y : writesY i = false → t.y = s.y
  sp : writesSp i = false → t.sp = s.sp
  mem : writesMemory i = false → t.mem = s.mem

namespace WritesOnly

variable {i : Instr} {s t u : State}

theorem refl (s : State) : WritesOnly i s s := ⟨fun _ => rfl, fun _ => rfl, fun _ => rfl, fun _ => rfl, fun _ => rfl⟩

theorem trans (h : WritesOnly i s t) (k : WritesOnly i t u) : WritesOnly i s u :=
  ⟨fun n => (k.a n).trans (h.a n), fun n => (k.x n).trans (h.x n), fun n => (k.y n).trans (h.y n),
    fun n => (k.sp n).trans (h.sp n), fun n => (k.mem n).trans (h.mem n)⟩

/-- Reading the bus writes no register and no memory. -/
theorem of_busOnly (h : BusOnly s t) : WritesOnly i s t := by
  obtain ⟨ha, hx, hy, hsp, -⟩ := h.fields
  exact ⟨fun _ => ha, fun _ => hx, fun _ => hy, fun _ => hsp, fun _ => h.mem_eq⟩

theorem setP (p : Status) : WritesOnly i s (s.setP p) :=
  ⟨fun _ => rfl, fun _ => rfl, fun _ => rfl, fun _ => rfl, fun _ => rfl⟩

theorem setPc (w : Word) : WritesOnly i s (s.setPc w) :=
  ⟨fun _ => rfl, fun _ => rfl, fun _ => rfl, fun _ => rfl, fun _ => rfl⟩

theorem setA (h : writesA i = true) (v : Byte) : WritesOnly i s (s.setA v) :=
  ⟨by simp [h], fun _ => rfl, fun _ => rfl, fun _ => rfl, fun _ => rfl⟩

theorem setX (h : writesX i = true) (v : Byte) : WritesOnly i s (s.setX v) :=
  ⟨fun _ => rfl, by simp [h], fun _ => rfl, fun _ => rfl, fun _ => rfl⟩

theorem setY (h : writesY i = true) (v : Byte) : WritesOnly i s (s.setY v) :=
  ⟨fun _ => rfl, fun _ => rfl, by simp [h], fun _ => rfl, fun _ => rfl⟩

theorem setSp (h : writesSp i = true) (v : Byte) : WritesOnly i s (s.setSp v) :=
  ⟨fun _ => rfl, fun _ => rfl, fun _ => rfl, by simp [h], fun _ => rfl⟩

theorem memWrite (h : writesMemory i = true) (a : Word) (v : Byte) : WritesOnly i s (memWrite a v s) :=
  ⟨fun _ => rfl, fun _ => rfl, fun _ => rfl, fun _ => rfl, by simp [h]⟩

theorem spendDraws (s : State) : WritesOnly i s s.spendDraws := by
  unfold State.spendDraws
  split
  · exact ⟨fun _ => rfl, fun _ => rfl, fun _ => rfl, fun _ => rfl, fun _ => rfl⟩
  · exact .refl s

theorem push (hsp : writesSp i = true) (hmem : writesMemory i = true) (v : Byte) : WritesOnly i s (push v s) :=
  (memWrite hmem _ v).trans (setSp hsp _)

theorem pushPc (hsp : writesSp i = true) (hmem : writesMemory i = true) : WritesOnly i s (pushPc s) :=
  (push hsp hmem _).trans (push hsp hmem _)

theorem pull (hsp : writesSp i = true) : WritesOnly i s (pull s).2 :=
  (setSp hsp _).trans (of_busOnly (memRead_busOnly ..))

theorem pullWord (hsp : writesSp i = true) : WritesOnly i s (pullWord s).2 := (pull hsp).trans (pull hsp)

theorem takeInterrupt (hsp : writesSp i = true) (hmem : writesMemory i = true) (b : Bool) (v : Word) :
    WritesOnly i s (takeInterrupt b v s) :=
  (((pushPc hsp hmem).trans (push hsp hmem _)).trans (setP _)).trans
    ((of_busOnly (readPair_busOnly v (v + 1#16) _)).trans (setPc _))

theorem returnFromInterrupt (hsp : writesSp i = true) : WritesOnly i s (returnFromInterrupt s) :=
  ((pull hsp).trans (setP _)).trans ((pullWord hsp).trans (setPc _))

theorem beforePull (s : State) : WritesOnly i s (beforePull s) :=
  of_busOnly ((impliedCycle_busOnly s).trans (dummyRead_busOnly ..))

theorem readOperand (m : ReadMode) (s : State) : WritesOnly i s (readOperand m s).2 :=
  of_busOnly (readOperand_busOnly m s)

theorem impliedCycle (s : State) : WritesOnly i s (impliedCycle s) := of_busOnly (impliedCycle_busOnly s)

theorem writeOperand (h : writesMemory i = true) (m : MemMode) (v : Byte) : WritesOnly i s (writeOperand m v s) :=
  (of_busOnly (resolve_busOnly .write m s)).trans (memWrite h _ v)

theorem modifyMemory (h : writesMemory i = true) (m : MemMode) (f : Byte → Byte) :
    WritesOnly i s (modifyMemory m f s).2 :=
  (of_busOnly ((resolve_busOnly .modify m s).trans (memRead_busOnly ..))).trans ((memWrite h _ _).trans (memWrite h _ _))

theorem branch (c : Bool) (d : Byte) (s : State) : WritesOnly i s (branch c d s) := by
  unfold Machine.branch
  split
  · dsimp only
    split
    · exact (of_busOnly ((dummyRead_busOnly ..).trans (dummyRead_busOnly ..))).trans (setPc _)
    · exact (of_busOnly (dummyRead_busOnly ..)).trans (setPc _)
  · exact .refl s

theorem execJsr {w : Word} (h : execJsr w s = .next t) : WritesOnly (.jsr w) s t := by
  cases h
  exact ((of_busOnly (dummyRead_busOnly (stackAddr s.sp) s)).trans (pushPc rfl rfl)).trans
    ((of_busOnly (memRead_busOnly ..)).trans (setPc _))

theorem execRts (h : execRts s = .next t) : WritesOnly .rts s t := by
  cases h
  exact ((beforePull s).trans (pullWord rfl)).trans ((of_busOnly (dummyRead_busOnly ..)).trans (setPc _))

end WritesOnly

/-- The cases are grouped by the bus accesses made and the registers written after them. -/
theorem exec_writesOnly {i : Instr} {s t : State} (h : exec i s = .next t) : WritesOnly i s t := by
  cases i
  case lda m | and m | ora m | eor m =>
    cases h; exact (WritesOnly.readOperand m s).trans ((WritesOnly.setA rfl _).trans (.setP _))
  case adc m | sbc m =>
    cases h
    exact ((WritesOnly.readOperand m s).trans (.spendDraws _)).trans ((WritesOnly.setA rfl _).trans (.setP _))
  case ldx m => cases h; exact (WritesOnly.readOperand m s).trans ((WritesOnly.setX rfl _).trans (.setP _))
  case ldy m => cases h; exact (WritesOnly.readOperand m s).trans ((WritesOnly.setY rfl _).trans (.setP _))
  case cmp m | cpx m | cpy m | bit m => cases h; exact (WritesOnly.readOperand m s).trans (.setP _)
  case sta m | stx m | sty m => cases h; exact .writeOperand rfl m _
  case asl m | lsr m | rol m | ror m =>
    cases m with
    | acc => cases h; exact ((WritesOnly.impliedCycle s).trans (.setA rfl _)).trans (.setP _)
    | mem mm => cases h; exact (WritesOnly.modifyMemory rfl mm _).trans (.setP _)
  case inc m | dec m => cases h; exact (WritesOnly.modifyMemory rfl m _).trans (.setP _)
  case tax | tsx | inx | dex => cases h; exact (WritesOnly.impliedCycle s).trans ((WritesOnly.setX rfl _).trans (.setP _))
  case tay | iny | dey => cases h; exact (WritesOnly.impliedCycle s).trans ((WritesOnly.setY rfl _).trans (.setP _))
  case txa | tya => cases h; exact (WritesOnly.impliedCycle s).trans ((WritesOnly.setA rfl _).trans (.setP _))
  case txs => cases h; exact (WritesOnly.impliedCycle s).trans (.setSp rfl _)
  case clc | sec | cli | sei | cld | sed | clv => cases h; exact (WritesOnly.impliedCycle s).trans (.setP _)
  case nop => cases h; exact .impliedCycle s
  case bcc d | bcs d | beq d | bne d | bmi d | bpl d | bvc d | bvs d => cases h; exact .branch _ d s
  case jmp m =>
    cases m with
    | abs w => cases h; exact .setPc w
    | ind p => cases h; exact (WritesOnly.of_busOnly (readPair_busOnly p (nextInPage p) s)).trans (.setPc _)
  case jsr w => exact .execJsr h
  case rts => exact .execRts h
  case pha | php => cases h; exact (WritesOnly.impliedCycle s).trans (.push rfl rfl _)
  case pla => cases h; exact ((WritesOnly.beforePull s).trans (.pull rfl)).trans ((WritesOnly.setA rfl _).trans (.setP _))
  case plp => cases h; exact ((WritesOnly.beforePull s).trans (.pull rfl)).trans (.setP _)
  case brk => cases h; exact .takeInterrupt rfl rfl _ _
  case rti => cases h; exact (WritesOnly.beforePull s).trans (.returnFromInterrupt rfl)
  case illegal => cases h; exact ⟨fun _ => rfl, fun _ => rfl, fun _ => rfl, fun _ => rfl, fun _ => rfl⟩

/-- Settles O59: the frame of `exec_writesOnly`, field by field. -/
theorem registersAndMemoryChangeOnlyByTheirInstructions :
    Obligations.RegistersAndMemoryChangeOnlyByTheirInstructions := by
  intro i s t h
  obtain ⟨ha, hx, hy, hsp, hmem⟩ := exec_writesOnly h
  exact ⟨ha, hx, hy, hsp, hmem⟩

/-- Every flag outside the set `w` is in `q` as it is in `p`. -/
def FlagsKept (w : FlagSet) (p q : Status) : Prop :=
  (w.n = false → q.n = p.n) ∧ (w.v = false → q.v = p.v) ∧ (w.d = false → q.d = p.d) ∧
  (w.i = false → q.i = p.i) ∧ (w.z = false → q.z = p.z) ∧ (w.c = false → q.c = p.c)

/-- A status register that is not written keeps every flag. -/
theorem FlagsKept.of_eq {w : FlagSet} {p q : Status} (h : q = p) : FlagsKept w p q := by
  subst h; simp [FlagsKept]

theorem setZN_flagsKept (p : Status) (v : Byte) : FlagsKept ⟨true, false, false, false, true, false⟩ p (p.setZN v) := by
  simp [FlagsKept, Status.setZN]

theorem setSum_flagsKept (p : Status) (r : Sum) : FlagsKept ⟨true, true, false, false, true, true⟩ p (p.setSum r) := by
  simp [FlagsKept, Status.setSum, Status.setZN]

theorem compare_flagsKept (p : Status) (r m : Byte) :
    FlagsKept ⟨true, false, false, false, true, true⟩ p (p.compare r m) := by
  simp [FlagsKept, Status.compare]

theorem bitTest_flagsKept (p : Status) (a m : Byte) :
    FlagsKept ⟨true, true, false, false, true, false⟩ p (p.bitTest a m) := by
  simp [FlagsKept, Status.bitTest]

theorem shiftedLeft_flagsKept (p : Status) (m r : Byte) :
    FlagsKept ⟨true, false, false, false, true, true⟩ p (p.shiftedLeft m r) := by
  simp [FlagsKept, Status.shiftedLeft, Status.setZN]

theorem shiftedRight_flagsKept (p : Status) (m r : Byte) :
    FlagsKept ⟨true, false, false, false, true, true⟩ p (p.shiftedRight m r) := by
  simp [FlagsKept, Status.shiftedRight, Status.setZN]

theorem BusOnly.p_eq {s t : State} (h : BusOnly s t) : t.p = s.p := by rw [h]

theorem branch_p (c : Bool) (d : Byte) (s : State) : (branch c d s).p = s.p := by
  unfold branch
  split
  · dsimp only; split <;> rfl
  · rfl

theorem writeOperand_p (m : MemMode) (v : Byte) (s : State) : (writeOperand m v s).p = s.p :=
  (resolve_busOnly .write m s).p_eq

theorem takeInterrupt_p (b : Bool) (v : Word) (s : State) : (takeInterrupt b v s).p = { s.p with i := true } := rfl

theorem pushPc_p (s : State) : (pushPc s).p = s.p := rfl

theorem execJsr_p {w : Word} {s t : State} (h : execJsr w s = .next t) : t.p = s.p := by
  cases h
  exact pushPc_p (dummyRead (stackAddr s.sp) s)

theorem pull_p (s : State) : (pull s).2.p = s.p := rfl

theorem pullWord_p (s : State) : (pullWord s).2.p = s.p := (pull_p (pull s).2).trans (pull_p s)

theorem execRts_p {s t : State} (h : execRts s = .next t) : t.p = s.p := by
  cases h
  exact pullWord_p (beforePull s)

/-- The cases are grouped by the flag computation the instruction makes. -/
theorem exec_flagsKept {i : Instr} {s t : State} (h : exec i s = .next t) : FlagsKept (flagsWritten i) s.p t.p := by
  cases i
  case lda | ldx | ldy | and | ora | eor | inc | dec | tax | tay | txa | tya | tsx | inx | iny | dex | dey | pla =>
    cases h; exact setZN_flagsKept s.p _
  case adc | sbc => cases h; exact setSum_flagsKept s.p _
  case cmp | cpx | cpy => cases h; exact compare_flagsKept s.p _ _
  case bit => cases h; exact bitTest_flagsKept s.p _ _
  case asl | rol => cases h; exact shiftedLeft_flagsKept s.p _ _
  case lsr | ror => cases h; exact shiftedRight_flagsKept s.p _ _
  case plp | rti => simp [FlagsKept, flagsWritten]
  case clc | sec | cli | sei | cld | sed | clv => cases h; simp [FlagsKept, flagsWritten]
  case brk => cases h; simp [FlagsKept, flagsWritten, takeInterrupt_p]
  case sta m | stx m | sty m => cases h; exact .of_eq (writeOperand_p m _ s)
  case bcc d | bcs d | beq d | bne d | bmi d | bpl d | bvc d | bvs d => cases h; exact .of_eq (branch_p _ d s)
  case jmp m => cases m <;> cases h <;> exact .of_eq rfl
  case rts => exact .of_eq (execRts_p h)
  case jsr => exact .of_eq (execJsr_p h)
  case txs | pha | php | nop | illegal => cases h; exact .of_eq rfl

/-- Settles O58: `exec_flagsKept` at each instruction. -/
theorem flagsChangeOnlyWhereTheTableSays : Obligations.FlagsChangeOnlyWhereTheTableSays :=
  fun _ _ _ h => exec_flagsKept h

end Sys2Proof.Machine
end

section
/-! The invariant of a run (R52, R57, R251, R252, R262, R266): construction establishes `RunInv`, and every operation of
the host, every part of the scheduler and every step keeps it. -/

namespace Sys2Proof.Machine

/-- A memory writer writes at words' addresses, so every instruction keeps memory canonical. -/
theorem exec_wf {i : Instr} {s t : State} (hs : Memory.wf s.mem = true) (h : exec i s = .next t) :
    Memory.wf t.mem = true := by
  cases hw : writesMemory i
  case false => rw [(exec_writesOnly h).mem hw]; exact hs
  case true =>
    cases i
    case sta m | stx m | sty m => cases h; exact writeOperand_wf m _ s hs
    case inc m | dec m => cases h; exact modifyMemory_wf m _ s hs
    case asl m | lsr m | rol m | ror m =>
      cases m with
      | acc => cases hw
      | mem mm => cases h; exact modifyMemory_wf mm _ s hs
    case pha | php => cases h; exact push_wf _ (impliedCycle s) hs
    case jsr => cases h; exact pushPc_wf (dummyRead (stackAddr s.sp) s) hs
    case brk => cases h; exact takeInterrupt_wf true (vectorOf .irq) s hs
    all_goals cases hw

/-- What leaves the scheduler alone and keeps memory canonical keeps the invariant. -/
theorem RunInv.of_kept {s t : State} (h : RunInv s) (kept : SchedulerKept s t) (wf : Memory.wf t.mem = true) :
    RunInv t where
  mem_wf := wf
  period_pos := by rw [kept.params]; exact h.period_pos
  running_ready := by rw [kept.runState, kept.resetDone, kept.fault]; exact h.running_ready
  budget_low := by rw [kept.params, kept.budget]; exact h.budget_low
  budget_high := by rw [kept.params, kept.budget]; exact h.budget_high
  returned_fits := by rw [kept.params, kept.returned]; exact h.returned_fits

/-- The budget may be anything within the bounds. -/
theorem RunInv.withBudget {s : State} (h : RunInv s) (b : Int) (low : min 1 ((s.params.period : Int) - 7) ≤ b)
    (high : b ≤ s.params.period) : RunInv { s with budget := b } :=
  ⟨h.mem_wf, h.period_pos, h.running_ready, low, high, h.returned_fits⟩

/-- The latches do not matter. -/
theorem RunInv.withLatches {s : State} (h : RunInv s) (nmi irq : Bool) :
    RunInv { s with nmiPending := nmi, irqPending := irq } :=
  ⟨h.mem_wf, h.period_pos, h.running_ready, h.budget_low, h.budget_high, h.returned_fits⟩

/-- A replenished budget meets the invariant (R262). -/
theorem RunInv.replenished {s : State} (h : RunInv s) : RunInv { s with budget := s.params.period } :=
  h.withBudget _ (by have := h.period_pos; omega) le_rfl

theorem runResult_fits (cycles : Nat) : runResult .mod65536 cycles < 65536 := Nat.mod_lt _ (by decide)

theorem returnFromRun_inv {s : State} (h : RunInv s) : RunInv (returnFromRun s) where
  mem_wf := h.mem_wf
  period_pos := h.period_pos
  running_ready := by simp [returnFromRun]
  budget_low := h.budget_low
  budget_high := h.budget_high
  returned_fits := by
    intro mode r hr
    cases hr
    rw [show s.params.resultMode = .mod65536 from mode]
    exact runResult_fits _

/-- A recorded fault ends `run`, so that the block does not run with it (R251). -/
theorem raiseFault_inv {s : State} (h : RunInv s) (f : Fault) : RunInv (raiseFault f s) :=
  have ⟨mem_wf, period_pos, _, budget_low, budget_high, returned_fits⟩ := returnFromRun_inv h
  ⟨mem_wf, period_pos, by simp [raiseFault, returnFromRun], budget_low, budget_high, returned_fits⟩

theorem exec_inv {i : Instr} {s t : State} (hs : RunInv s) (h : exec i s = .next t) : RunInv t := by
  cases hi : i.documented
  case true => exact hs.of_kept (exec_kept hi h) (exec_wf hs.mem_wf h)
  case false =>
    cases i
    case illegal op => cases h; exact raiseFault_inv (hs.of_kept (setPc_kept s (s.pc - 1#16)) hs.mem_wf) _
    all_goals cases hi

theorem fetchInstr_kept (s : State) : SchedulerKept s (fetchInstr s).2 := by
  have opcode := fetch_kept s
  unfold fetchInstr
  dsimp only
  split
  · exact opcode
  · exact opcode.trans (fetch_kept _)
  · exact (opcode.trans (fetch_kept _)).trans (fetch_kept _)

theorem fetch_mem (s : State) : (fetch s).2.mem = s.mem := rfl

theorem fetchInstr_mem (s : State) : (fetchInstr s).2.mem = s.mem := by
  unfold fetchInstr
  dsimp only
  split
  · exact fetch_mem s
  · rw [fetch_mem, fetch_mem]
  · rw [fetch_mem, fetch_mem, fetch_mem]

theorem fetchInstr_inv {s : State} (h : RunInv s) : RunInv (fetchInstr s).2 :=
  h.of_kept (fetchInstr_kept s) (by rw [fetchInstr_mem]; exact h.mem_wf)

/-- A call of `run` begins only in a block that has been reset and stands in no fault, and returns 0 otherwise. -/
theorem enterRun_inv {s : State} (h : RunInv s) : RunInv (enterRun s) := by
  have ⟨mem_wf, period_pos, running_ready, budget_low, budget_high, _⟩ := h
  unfold enterRun
  split
  case isTrue => exact h
  case isFalse halted =>
    split
    case isTrue =>
      exact ⟨mem_wf, period_pos, fun running => absurd running halted, budget_low, budget_high, by simp⟩
    case isFalse reset =>
      split
      case isTrue => exact ⟨mem_wf, period_pos, running_ready, budget_low, budget_high, by simp⟩
      case isFalse sound =>
        have ready : s.resetDone = true ∧ s.fault = none := ⟨by simpa using reset, by simpa using sound⟩
        exact ⟨mem_wf, period_pos, fun _ => ready, budget_low, budget_high, by simp⟩

theorem interruptEntry_inv {s : State} (h : RunInv s) (ty : IntType) : RunInv (interruptEntry ty s) :=
  h.of_kept (interruptEntry_kept s ty) (interruptEntry_wf ty s h.mem_wf)

/-- A full budget bears one entry: this is where the lower bound comes from (R262). -/
theorem chargedEntry_inv {s : State} (h : RunInv s) (full : s.budget = s.params.period) (ty : IntType) :
    RunInv (chargedEntry ty s) := by
  have entered := interruptEntry_inv h ty
  have kept := interruptEntry_kept s ty
  have budget : (interruptEntry ty s).budget = (interruptEntry ty s).params.period := by
    rw [kept.budget, kept.params, full]
  have ⟨mem_wf, period_pos, running_ready, _, _, returned_fits⟩ := entered
  exact ⟨mem_wf, period_pos, running_ready, by simp [chargedEntry, charge, entryCost, budget],
    by simp [chargedEntry, charge, entryCost, budget], returned_fits⟩

theorem poll_inv {s : State} (h : RunInv s) : RunInv (poll s).2 :=
  ⟨h.mem_wf, h.period_pos, h.running_ready, h.budget_low, h.budget_high, h.returned_fits⟩

theorem serviceIrq_inv {s : State} (h : RunInv s) (full : s.budget = s.params.period) : RunInv (serviceIrq s) := by
  have consumed : RunInv { s with irqPending := false } := h.withLatches s.nmiPending false
  unfold serviceIrq
  split
  · exact consumed
  · exact chargedEntry_inv consumed full .irq

theorem actOnSignal_inv {s : State} (h : RunInv s) (full : s.budget = s.params.period) (signal : PollSignal) :
    RunInv (actOnSignal signal s) := by
  cases signal with
  | quit => exact returnFromRun_inv h
  | nmi => exact (chargedEntry_inv h full .nmi).withLatches (chargedEntry .nmi s).nmiPending false
  | irq => exact serviceIrq_inv h full
  | cont =>
    dsimp only [actOnSignal]
    split
    · exact serviceIrq_inv h full
    · exact h

/-- The check point restores the lower bound of the budget, whatever has been charged (R262). -/
theorem checkPoint_inv {s : State} (h : RunInv { s with budget := s.params.period }) (high : s.budget ≤ s.params.period) :
    RunInv (checkPoint s) := by
  unfold checkPoint
  split
  case isTrue => exact actOnSignal_inv (poll_inv h) rfl _
  case isFalse unspent => exact h.withBudget s.budget (by have := not_le.mp unspent; omega) high

theorem finishStep_inv {s : State} (h : RunInv s) (calls : Nat) : RunInv (finishStep calls s) := by
  have high := h.budget_high
  have ⟨mem_wf, period_pos, running_ready, budget_low, budget_high, returned_fits⟩ := h.replenished
  refine checkPoint_inv ⟨mem_wf, period_pos, running_ready, budget_low, budget_high, returned_fits⟩ ?_
  show s.budget - ((s.busCalls - calls : Nat) : Int) ≤ s.params.period
  omega

theorem nmiStep_inv {s : State} (h : RunInv s) : RunInv (nmiStep s) :=
  finishStep_inv (interruptEntry_inv (h.withLatches false s.irqPending) .nmi) s.busCalls

theorem afterInstruction_inv {s : State} (h : RunInv s) (calls : Nat) : RunInv (afterInstruction calls s) := by
  unfold afterInstruction
  split
  · exact h
  · exact finishStep_inv h calls

/-- Settles O9: each of the three things a step can do (`step_cases`) keeps the invariant. -/
theorem everyStepKeepsTheInvariant : Obligations.EveryStepKeepsTheInvariant := by
  intro s t hs h
  have entered := enterRun_inv hs
  obtain ⟨-, rfl⟩ | ⟨-, -, rfl⟩ | ⟨-, -, u, hu, rfl⟩ := step_cases h
  · exact entered
  · exact nmiStep_inv entered
  · exact afterInstruction_inv (exec_inv (fetchInstr_inv entered) hu) _

/-- Settles O19: the two branches of `construct`. -/
theorem constructionNeedsAPositivePeriod : Obligations.ConstructionNeedsAPositivePeriod :=
  fun _ _ => ⟨fun zero => if_pos zero, fun positive =>
    ⟨_, if_neg (Nat.ne_of_gt positive), rfl, rfl, rfl, rfl, rfl, rfl, rfl, rfl, rfl, rfl, rfl⟩⟩

theorem construct_inv {params : Params} {host : Callbacks} {s : State} (wf : Memory.wf host.mem = true)
    (h : construct params host = .next s) : RunInv s := by
  unfold construct at h
  split at h
  case isTrue => cases h
  case isFalse positive =>
    cases h
    exact ⟨wf, by dsimp only; omega, by simp, by dsimp only; omega, le_rfl, by simp⟩

theorem drawRegisters_kept (v : Drawn) (s : State) : SchedulerKept s (s.drawRegisters v) := by
  unfold State.drawRegisters
  split
  · exact .refl s
  · exact ⟨rfl, rfl, rfl, rfl, rfl, rfl, rfl, rfl, rfl, rfl⟩

theorem drawRegisters_mem (v : Drawn) (s : State) : (s.drawRegisters v).mem = s.mem := by
  unfold State.drawRegisters
  split <;> rfl

/-- `reset` draws registers, sets I and reads the vector, and none of that touches the scheduler or memory; its writes
to the scheduler are a full budget and clear latches (R300). -/
theorem hostReset_inv {v : Drawn} {s t : State} (hs : RunInv s) (h : hostReset v s = .next t) : RunInv t := by
  unfold hostReset at h
  split at h
  case isTrue => cases h
  case isFalse halted =>
    have kept : SchedulerKept s (s.drawRegisters v).disableInterrupts := (drawRegisters_kept v s).trans (setP_kept _ _)
    have drawn : RunInv (s.drawRegisters v).disableInterrupts :=
      hs.of_kept kept (by rw [State.disableInterrupts_mem, drawRegisters_mem]; exact hs.mem_wf)
    have ⟨mem_wf, period_pos, _, budget_low, budget_high, returned_fits⟩ := drawn.withBudget s.params.period
      (by rw [kept.params]; exact hs.replenished.budget_low) (by rw [kept.params])
    cases h
    exact ⟨mem_wf, period_pos, fun running => absurd (kept.runState.symm.trans running) halted, budget_low, budget_high,
      returned_fits⟩

theorem interupt_inv {s : State} (h : RunInv s) (ty : IntType) : RunInv (interupt ty s) := by
  cases ty with
  | irq => exact h.withLatches s.nmiPending true
  | nmi => exact h.withLatches true s.irqPending

/-- Settles O11: one lemma per operation of the host. -/
theorem theHostsOperationsKeepTheInvariant : Obligations.TheHostsOperationsKeepTheInvariant :=
  ⟨fun _ _ _ wf h => construct_inv wf h, fun _ _ _ hs h => hostReset_inv hs h, fun ty _ hs => interupt_inv hs ty⟩

/-- Settles O15: both operations, evaluated. -/
theorem theResetStateIsAFirstReset : Obligations.TheResetStateIsAFirstReset := ⟨_, rfl, rfl⟩

/-- Settles O10: the reset state is constructed and then reset (`theResetStateIsAFirstReset`). -/
theorem theResetStateMeetsTheInvariant : Obligations.TheResetStateMeetsTheInvariant := by
  obtain ⟨_, constructed, reset⟩ := theResetStateIsAFirstReset
  exact hostReset_inv (construct_inv rfl constructed) reset

end Sys2Proof.Machine
end

section
/-! The layout of the status byte (R37, R38). -/

namespace Sys2Proof.Machine

/-- The bits of a packed status byte, from bit 7 down: N V 1 B D I Z C. -/
theorem packP_bits (p : Status) (b : Bool) :
    (packP p b).getLsbD 7 = p.n ∧ (packP p b).getLsbD 6 = p.v ∧ (packP p b).getLsbD 5 = true ∧
    (packP p b).getLsbD 4 = b ∧ (packP p b).getLsbD 3 = p.d ∧ (packP p b).getLsbD 2 = p.i ∧
    (packP p b).getLsbD 1 = p.z ∧ (packP p b).getLsbD 0 = p.c := by
  obtain ⟨n, v, d, i, z, c⟩ := p
  revert n v d i z c b
  decide

/-- Packing keeps the six stored flags (R38). -/
theorem unpackP_packP (p : Status) (b : Bool) : unpackP (packP p b) = p := by
  obtain ⟨n, v, -, -, d, i, z, c⟩ := packP_bits p b
  rw [unpackP, n, v, d, i, z, c]

/-- Unpacking loses bits 5 and 4 only: bit 4 is given back, and bit 5 of a packed byte is 1. -/
theorem packP_unpackP (v : Byte) : packP (unpackP v) (v.getLsbD 4) = v ||| 0x20#8 := by
  obtain ⟨h7, h6, h5, h4, h3, h2, h1, h0⟩ := packP_bits (unpackP v) (v.getLsbD 4)
  apply BitVec.eq_of_getLsbD_eq
  intro k hk
  rw [BitVec.getLsbD_or]
  interval_cases k
  · rw [h0]; simp [unpackP]
  · rw [h1]; simp [unpackP]
  · rw [h2]; simp [unpackP]
  · rw [h3]; simp [unpackP]
  · rw [h4]; simp
  · rw [h5]; simp
  · rw [h6]; simp [unpackP]
  · rw [h7]; simp [unpackP]

/-- Settles O48: the bits of a packed byte, and the two directions of packing and unpacking. -/
theorem statusByteLayout : Obligations.StatusByteLayout := by
  refine ⟨fun p b => ?_, packP_unpackP⟩
  obtain ⟨h7, h6, h5, h4, h3, h2, h1, h0⟩ := packP_bits p b
  exact ⟨h7, h6, h5, h4, h3, h2, h1, h0, unpackP_packP p b⟩

end Sys2Proof.Machine
end

section
/-! The memory behind the bus (R60, R62): RAM, and a canonical form that the bytes it reads as determine. -/

namespace Sys2Proof.Machine

theorem Memory.wfFrom_cons {low i : Nat} {b : Byte} {rest : Memory} :
    Memory.wfFrom low ((i, b) :: rest) = true ↔
      low ≤ i ∧ i < 65536 ∧ b ≠ Memory.unlisted ∧ Memory.wfFrom (i + 1) rest = true := by
  simp [Memory.wfFrom, and_assoc]

@[simp] theorem Memory.read_cons_same (i : Nat) (b : Byte) (rest : Memory) : Memory.read ((i, b) :: rest) i = b :=
  if_pos rfl

theorem Memory.read_cons_of_ne {i a : Nat} (b : Byte) (rest : Memory) (hne : i ≠ a) :
    Memory.read ((i, b) :: rest) a = Memory.read rest a :=
  if_neg hne

/-- Below its bound a canonical memory lists nothing. -/
theorem Memory.read_below {m : Memory} {low a : Nat} (wf : Memory.wfFrom low m = true) (ha : a < low) :
    Memory.read m a = Memory.unlisted := by
  induction m generalizing low with
  | nil => rfl
  | cons e rest ih =>
    obtain ⟨hlow, -, -, wfRest⟩ := Memory.wfFrom_cons.mp wf
    rw [Memory.read_cons_of_ne _ _ (by omega)]
    exact ih wfRest (by omega)

/-- The first address listed is the lowest one that reads as anything but the unlisted byte. -/
theorem Memory.first_le_of_read_ne {low i a : Nat} {b : Byte} {rest : Memory}
    (wf : Memory.wfFrom low ((i, b) :: rest) = true) (h : Memory.read ((i, b) :: rest) a ≠ Memory.unlisted) : i ≤ a := by
  by_contra hlt
  obtain ⟨-, hi, hb, wfRest⟩ := Memory.wfFrom_cons.mp wf
  exact h (Memory.read_below (Memory.wfFrom_cons.mpr ⟨le_refl i, hi, hb, wfRest⟩) (by omega))

/-- Canonical memories that read alike at every address of the space are the same list: both begin at the lowest address
that reads as anything but the unlisted byte, with the byte read there, and the rests read alike again. -/
theorem Memory.ext_of_wfFrom {m k : Memory} {low : Nat} (wfm : Memory.wfFrom low m = true)
    (wfk : Memory.wfFrom low k = true) (alike : ∀ a < 65536, Memory.read m a = Memory.read k a) : m = k := by
  induction m generalizing k low with
  | nil =>
    cases k with
    | nil => rfl
    | cons f rest' =>
      obtain ⟨-, hj, hc, -⟩ := Memory.wfFrom_cons.mp wfk
      exact absurd ((Memory.read_cons_same ..).symm.trans (alike _ hj).symm) hc
  | cons e rest ih =>
    obtain ⟨i, b⟩ := e
    obtain ⟨-, hi, hb, wfRest⟩ := Memory.wfFrom_cons.mp wfm
    have readk : Memory.read k i = b := by rw [← alike i hi, Memory.read_cons_same]
    cases k with
    | nil => exact absurd readk.symm hb
    | cons f rest' =>
      obtain ⟨j, c⟩ := f
      obtain ⟨-, hj, hc, wfRest'⟩ := Memory.wfFrom_cons.mp wfk
      have hji : j ≤ i := Memory.first_le_of_read_ne wfk (by rwa [readk])
      have hij : i ≤ j := Memory.first_le_of_read_ne wfm (by rwa [alike j hj, Memory.read_cons_same])
      obtain rfl : i = j := le_antisymm hij hji
      obtain rfl : c = b := by rwa [Memory.read_cons_same] at readk
      have restsAlike : ∀ a < 65536, Memory.read rest a = Memory.read rest' a := by
        intro a ha
        by_cases hia : i = a
        · rw [Memory.read_below wfRest (by omega), Memory.read_below wfRest' (by omega)]
        · rw [← Memory.read_cons_of_ne c rest hia, alike a ha, Memory.read_cons_of_ne c rest' hia]
      rw [ih wfRest wfRest' restsAlike]

/-- Settles O22: `Memory.ext_of_wfFrom` from address 0; the addresses of the space are the 16-bit words. -/
theorem canonicalMemoriesThatReadAlikeAreEqual : Obligations.CanonicalMemoriesThatReadAlikeAreEqual := by
  intro m k wfm wfk alike
  refine Memory.ext_of_wfFrom wfm wfk fun a ha => ?_
  have atWord := alike (BitVec.ofNat 16 a)
  rwa [BitVec.toNat_ofNat, Nat.mod_eq_of_lt ha] at atWord

/-- Settles O21: the laws of `Memory.write` at a word's address. -/
theorem memoryIsRam : Obligations.MemoryIsRam := fun m a v wf =>
  ⟨Memory.write_wf m a.toNat v wf a.isLt, Memory.read_write_same m a.toNat v wf,
    fun c hne => Memory.read_write_other m a.toNat c.toNat v fun h => hne (BitVec.eq_of_toNat_eq h)⟩

end Sys2Proof.Machine
end

section
/-! Decoding and encoding (R90 to R102). The opcode fixes the form of its instruction, and the operand bytes only fill the
operand in. So a decoding is an opcode, as many operand bytes as its length says, and a rest, and the encoder writes
that opcode and those operand bytes. -/

namespace Sys2Proof

open Machine

/-! ### The opcode map, read by opcode value -/

/-- The operand bytes choose neither the length of an opcode's instruction nor whether the map has a cell for it. -/
theorem decodeOp_form (op b1 b2 c1 c2 : Byte) :
    (decodeOp op b1 b2).length = (decodeOp op c1 c2).length ∧
    wellFormed (decodeOp op b1 b2) = wellFormed (decodeOp op c1 c2) := by
  unfold decodeOp
  split
  all_goals exact ⟨rfl, rfl⟩

theorem length_decodeOp (op b1 b2 : Byte) : (decodeOp op b1 b2).length = lengthOf op := (decodeOp_form op b1 b2 0 0).1

/-- Each of the 256 opcode values gives an instruction the map has a cell for, or a listed illegal one (R102). -/
theorem wellFormed_decodeOp (op b1 b2 : Byte) : wellFormed (decodeOp op b1 b2) = true := by
  have withZeros : ∀ op : Byte, wellFormed (decodeOp op 0 0) = true := by decide
  rw [(decodeOp_form op b1 b2 0 0).2, withZeros]

/-- Cell by cell, the encoder has the opcode that the decoder read, and no bit of an operand byte is lost: a one-byte
operand is `b1` itself, and a word holds both bytes (R93). -/
theorem decodeOp_bytes (op b1 b2 : Byte) :
    opcode (decodeOp op b1 b2) = some op ∧
    (decodeOp op b1 b2).operandBytes = [b1, b2].take ((decodeOp op b1 b2).length - 1) := by
  have word : [lo (joinBytes b2 b1), hi (joinBytes b2 b1)] = [b1, b2] := by rw [lo_joinBytes, hi_joinBytes]
  unfold decodeOp
  split
  case h_152 => exact ⟨rfl, rfl⟩
  all_goals
    rename_i cell
    refine ⟨congrArg some (BitVec.eq_of_toNat_eq cell.symm), ?_⟩
    first | exact word | exact rfl

theorem opcode_decodeOp (op b1 b2 : Byte) : opcode (decodeOp op b1 b2) = some op := (decodeOp_bytes op b1 b2).1

theorem operandBytes_decodeOp (op b1 b2 : Byte) :
    (decodeOp op b1 b2).operandBytes = [b1, b2].take (lengthOf op - 1) := by
  rw [← length_decodeOp op b1 b2, ← (decodeOp_bytes op b1 b2).2]

/-! ### The opcode map, read by mnemonic and mode -/

open Laws.OpcodeReads in
/-- The family `Laws.OpcodeReads` together: an opcode and operand bytes of the encoder's are read back. -/
theorem opcodeReads (i : Instr) : Statement i := by
  cases i
  exacts [lda _, ldx _, ldy _, sta _, stx _, sty _, tax, tay, txa, tya, tsx, txs, adc _, sbc _, and _, ora _, eor _,
    cmp _, cpx _, cpy _, bit _, asl _, lsr _, rol _, ror _, inc _, dec _, inx, iny, dex, dey, bcc _, bcs _, beq _,
    bne _, bmi _, bpl _, bvc _, bvs _, jmp _, jsr _, rts, pha, php, pla, plp, clc, sec, cli, sei, cld, sed, clv, nop,
    brk _, rti, illegal _]

/-- The map has an opcode for every mode an operation takes (R97). -/
theorem exists_opcode {i : Instr} (wf : wellFormed i = true) : ∃ op, opcode i = some op := by
  unfold opcode
  split
  all_goals first | exact ⟨_, rfl⟩ | cases wf

theorem documented_iff_ne_illegal {i : Instr} {op : Byte} (h : opcode i = some op) :
    i.documented = true ↔ i ≠ .illegal op := by
  cases i
  case illegal o => cases h; simp [Instr.documented]
  all_goals simp [Instr.documented]

theorem encode_eq {i : Instr} {op : Byte} (wf : wellFormed i = true) (h : opcode i = some op) :
    encode i = some (op :: i.operandBytes) := by
  rw [encode, if_pos wf, h, Option.map_some]

/-- R91: an instruction has one, two or three bytes. -/
theorem lengthOf_bounds (op : Byte) : 1 ≤ lengthOf op ∧ lengthOf op ≤ 3 := by
  have count := (opcodeReads _ op (wellFormed_decodeOp op 0 0) (opcode_decodeOp op 0 0)).2
  rw [length_decodeOp, operandBytes_decodeOp, List.length_take] at count
  simp only [List.length_cons, List.length_nil] at count
  omega

/-! ### Lists of bytes -/

/-- The instruction of an opcode and the operand bytes listed. -/
def instrOf (op : Byte) (operands : List Byte) : Instr := decodeOp op (operands.getD 0 0) (operands.getD 1 0)

theorem wellFormed_instrOf (op : Byte) (operands : List Byte) : wellFormed (instrOf op operands) = true :=
  wellFormed_decodeOp ..

theorem opcode_instrOf (op : Byte) (operands : List Byte) : opcode (instrOf op operands) = some op := opcode_decodeOp ..

theorem length_instrOf (op : Byte) (operands : List Byte) : (instrOf op operands).length = lengthOf op :=
  length_decodeOp ..

section
variable {op : Byte} {operands : List Byte} (len : lengthOf op = operands.length + 1)
include len

theorem operands_cases : operands = [] ∨ (∃ b1, operands = [b1]) ∨ ∃ b1 b2, operands = [b1, b2] := by
  have bounds := lengthOf_bounds op
  rw [← List.length_eq_zero_iff, ← List.length_eq_one_iff, ← List.length_eq_two]
  omega

theorem operandBytes_instrOf : (instrOf op operands).operandBytes = operands := by
  rw [instrOf, operandBytes_decodeOp, len]
  obtain rfl | ⟨b1, rfl⟩ | ⟨b1, b2, rfl⟩ := operands_cases len
  all_goals rfl

theorem encode_instrOf : encode (instrOf op operands) = some (op :: operands) := by
  rw [encode_eq (wellFormed_instrOf ..) (opcode_instrOf ..), operandBytes_instrOf len]

theorem decode_instrOf (rest : List Byte) : decode (op :: (operands ++ rest)) = .ok (instrOf op operands, rest) := by
  obtain rfl | ⟨b1, rfl⟩ | ⟨b1, b2, rfl⟩ := operands_cases len
  all_goals simp [decode, len, instrOf]

end

/-- A list that decodes is an opcode, the operand bytes that the opcode asks for, and the rest. -/
theorem decode_ok_cases {bytes rest : List Byte} {i : Instr} (h : decode bytes = .ok (i, rest)) :
    ∃ op operands, lengthOf op = operands.length + 1 ∧ bytes = op :: (operands ++ rest) ∧ i = instrOf op operands := by
  unfold decode at h
  split at h
  case h_1 => cases h
  case h_2 op tail =>
    split at h
    case h_1 len => cases h; exact ⟨op, [], len, rfl, rfl⟩
    case h_2 b1 _ len => cases h; exact ⟨op, [b1], len, rfl, rfl⟩
    case h_3 b1 b2 _ len => cases h; exact ⟨op, [b1, b2], len, rfl, rfl⟩
    case h_4 => cases h

/-- The encoder's bytes decode to the instruction they were made from. -/
theorem decode_operandBytes {i : Instr} {op : Byte} (wf : wellFormed i = true) (h : opcode i = some op)
    (rest : List Byte) : decode (op :: (i.operandBytes ++ rest)) = .ok (i, rest) := by
  obtain ⟨back, len⟩ := opcodeReads i op wf h
  have lenOp : lengthOf op = i.operandBytes.length + 1 := by rw [← len, ← back, length_decodeOp]
  rw [decode_instrOf lenOp, instrOf, back]

/-- Two operand bytes are enough for every opcode (R91, R102). -/
theorem decode_opcode_two_bytes (op b1 b2 : Byte) (rest : List Byte) :
    decode (op :: b1 :: b2 :: rest) =
      .ok (instrOf op ((b1 :: b2 :: rest).take (lengthOf op - 1)), (b1 :: b2 :: rest).drop (lengthOf op - 1)) := by
  have bounds := lengthOf_bounds op
  have len : lengthOf op = ((b1 :: b2 :: rest).take (lengthOf op - 1)).length + 1 := by
    rw [List.length_take, List.length_cons, List.length_cons]; omega
  rw [← decode_instrOf len, List.take_append_drop]

/-- Settles O2: the encoding is the opcode and the operand bytes, which the decoder reads back. -/
theorem decodingAnEncodingGivesTheInstructionBack : Obligations.DecodingAnEncodingGivesTheInstructionBack := by
  intro i wf
  obtain ⟨op, hop⟩ := exists_opcode wf
  exact ⟨op :: i.operandBytes, encode_eq wf hop, (opcodeReads i op wf hop).2.symm, decode_operandBytes wf hop⟩

/-- Settles O3: the bytes are an opcode, its operand bytes and the rest, and the encoder gives the first two. -/
theorem encodingADecodingGivesTheBytesBack : Obligations.EncodingADecodingGivesTheBytesBack := by
  intro bytes i rest h
  obtain ⟨op, operands, len, rfl, rfl⟩ := decode_ok_cases h
  exact ⟨wellFormed_instrOf .., op :: operands, encode_instrOf len, rfl⟩

/-- A listed opcode is its whole instruction, and well-formedness admits `illegal` for listed opcodes only (R100). -/
theorem mem_illegalOpcodes_iff {op : Byte} {i : Instr} {tail left : List Byte}
    (h : decode (op :: tail) = .ok (i, left)) : op ∈ illegalOpcodes ↔ i = .illegal op := by
  constructor
  · intro listed
    have read := decode_operandBytes (i := .illegal op) (List.contains_iff_mem.mpr listed) rfl tail
    cases read.symm.trans h
    rfl
  · rintro rfl
    exact List.contains_iff_mem.mp (encodingADecodingGivesTheBytesBack _ _ _ h).1

/-- Settles O4: the decoding written out, and `illegal` as the verdict on the listed opcodes. -/
theorem exactlyTheListedOpcodesAreIllegal : Obligations.ExactlyTheListedOpcodesAreIllegal := by
  refine ⟨rfl, by decide, fun op b1 b2 rest => ?_⟩
  have read := decode_opcode_two_bytes op b1 b2 rest
  have listed := mem_illegalOpcodes_iff read
  refine ⟨_, _, read, wellFormed_instrOf .., ?_, listed, ?_⟩
  · rw [length_instrOf]
  · rw [documented_iff_ne_illegal (opcode_instrOf ..), ne_eq, listed]

/-- Settles O1: each word decodes by evaluation. -/
theorem opcodeWordsDecodeAsTheMapSays : Obligations.OpcodeWordsDecodeAsTheMapSays :=
  ⟨rfl, rfl, rfl, rfl, rfl, rfl, rfl, rfl, rfl, rfl, rfl, rfl, rfl⟩

end Sys2Proof
end

section
/-! The addressing modes (R110 to R119, R130, R134): the page test of the indexed modes, and each operand access as its
bus cycles. -/

namespace Sys2Proof.Machine

/-- An indexed address wraps modulo 65536 (R116). -/
theorem add_zext16_toNat (base : Word) (idx : Byte) :
    (base + zext16 idx).toNat = (base.toNat + idx.toNat) % 65536 := by
  rw [BitVec.toNat_add, zext16_toNat]

theorem otherPage_eq_true_iff (base : Word) (idx : Byte) :
    otherPage (base + zext16 idx) base = true ↔ 256 ≤ (lo base).toNat + idx.toNat := by
  rw [← Bool.not_eq_false, otherPage_eq_false_iff, not_lt]

/-- Without the carry into the high byte the address is the indexed one exactly where there is no carry (R116). -/
theorem uncorrected_eq_iff (base : Word) (idx : Byte) :
    uncorrected base idx = base + zext16 idx ↔ (lo base).toNat + idx.toNat < 256 := by
  have hb := base.isLt
  have hx := idx.isLt
  rw [← BitVec.toNat_inj, add_zext16_toNat, uncorrected, joinBytes_toNat, BitVec.toNat_add, hi_toNat, lo_toNat]
  omega

/-- Settles O24: the sum and the two page tests in numbers. -/
theorem pageCrossingIsALowByteCarry : Obligations.PageCrossingIsALowByteCarry := fun base idx =>
  ⟨add_zext16_toNat base idx, otherPage_eq_true_iff base idx, uncorrected_eq_iff base idx⟩

theorem memRead_afterCycles (a : Word) (n : Nat) (e : List Event) (s : State) :
    memRead a (s.afterCycles n e) = (s.answerAfter n a, s.afterCycles (n + 1) (s.readEvent n a :: e)) := by
  simp [memRead_eq]

theorem memWrite_afterCycles (a : Word) (v : Byte) (n : Nat) (e : List Event) (s : State) :
    memWrite a v (s.afterCycles n e) = { s.afterCycles n (.write a v :: e) with mem := s.mem.put a v } := rfl

/-- A read-class operand in memory: the mode's cycles, and the read at the effective address (R134). -/
theorem readOperand_mem_eq (m : MemMode) (s : State) :
    readOperand (.mem m) s =
      (s.answerAfter (addressEvents .read m s).length (modeAddress m s),
       s.afterCycles ((addressEvents .read m s).length + 1)
         (s.readEvent (addressEvents .read m s).length (modeAddress m s) :: addressEvents .read m s)) := by
  rw [readOperand, resolve_eq, memRead_afterCycles]

/-- A write-class operand: the mode's cycles, and the write at the effective address (R134). -/
theorem writeOperand_eq (m : MemMode) (v : Byte) (s : State) :
    writeOperand m v s =
      { s.afterCycles (addressEvents .write m s).length (.write (modeAddress m s) v :: addressEvents .write m s) with
        mem := s.mem.put (modeAddress m s) v } := by
  rw [writeOperand, resolve_eq, memWrite_afterCycles]

/-- The last three cycles of a read-modify-write operand (R117), after `n` reads. -/
theorem readModifyWrite_afterCycles (ea : Word) (f : Byte → Byte) (n : Nat) (e : List Event) (s : State) :
    readModifyWrite ea f (s.afterCycles n e) =
      (s.answerAfter n ea,
       { s.afterCycles (n + 1)
           (.write ea (f (s.answerAfter n ea)) :: .write ea (s.answerAfter n ea) :: s.readEvent n ea :: e) with
         mem := (s.mem.put ea (s.answerAfter n ea)).put ea (f (s.answerAfter n ea)) }) := by
  simp only [readModifyWrite, memRead_afterCycles]
  rfl

/-- Settles O23: each access is the mode's resolution (`resolve_eq`) followed by the cycles at the effective address. -/
theorem operandAccessesMakeTheirBusCycles : Obligations.OperandAccessesMakeTheirBusCycles := by
  intro s
  refine ⟨fun v => rfl, fun m => ?_, fun m => readOperand_mem_eq m s, fun m v => writeOperand_eq m v s, fun m f => ?_⟩
  · rw [effectiveAddress, resolve_eq]
  · rw [modifyMemory, resolve_eq]
    exact readModifyWrite_afterCycles _ f _ _ s

end Sys2Proof.Machine
end

section
/-! The cycle counts of the opcode map (R131, R132): the bus calls each instruction makes, its fetches counted in. -/

namespace Sys2Proof.Machine

theorem spendDraws_busCalls (s : State) : s.spendDraws.busCalls = s.busCalls := by
  unfold State.spendDraws
  split <;> rfl

/-- ADC and SBC make the bus calls of their operand. -/
theorem sumWith_busCalls (sum : State → Byte → Sum) (m : ReadMode) (s : State) :
    (sumWith sum m s).busCalls = (readOperand m s).2.busCalls :=
  spendDraws_busCalls (readOperand m s).2

/-- The bus calls of a shift (R131): a dummy read for the accumulator (R111), or those of its operand in memory. -/
theorem modifyOperand_busCalls (m : RmwMode) (f : Byte → Byte) (s : State) :
    (modifyOperand m f s).2.busCalls + m.length = s.busCalls + m.cycles := by
  cases m with
  | acc => rfl
  | mem mm => exact modifyMemory_busCalls mm f s

theorem impliedCycle_busCalls (s : State) : (impliedCycle s).busCalls = s.busCalls + 1 := rfl

theorem beforePull_busCalls (s : State) : (beforePull s).busCalls = s.busCalls + 2 := rfl

/-- JSR: the dummy read, two pushes and the read of the target's high byte (R123). -/
theorem execJsr_busCalls {w : Word} {s t : State} (h : execJsr w s = .next t) : t.busCalls = s.busCalls + 4 := by
  cases h; rfl

/-- RTS: two dummy reads, two pulls and the dummy read at the pulled address (R124). -/
theorem execRts_busCalls {s t : State} (h : execRts s = .next t) : t.busCalls = s.busCalls + 5 := by
  cases h; rfl

/-- The cycles of a documented instruction (R132). The cases are grouped by the bus accesses the instruction makes. -/
theorem exec_busCalls {i : Instr} {s t : State} (hi : i.documented = true) (h : exec i s = .next t) :
    t.busCalls + fetchedBytes i = s.busCalls + baseCycles i + extraCycles i s := by
  cases i
  case lda m | ldx m | ldy m | and m | ora m | eor m | cmp m | cpx m | cpy m | bit m =>
    cases h; exact readOperand_busCalls m s
  case adc m | sbc m => cases h; rw [sumWith_busCalls]; exact readOperand_busCalls m s
  case sta m | stx m | sty m => cases h; exact writeOperand_busCalls m _ s
  case asl m | lsr m | rol m | ror m => cases h; exact modifyOperand_busCalls m _ s
  case inc m => cases h; exact modifyMemory_busCalls m increment s
  case dec m => cases h; exact modifyMemory_busCalls m decrement s
  case tax | tay | txa | tya | tsx | txs | inx | iny | dex | dey | clc | sec | cli | sei | cld | sed | clv | nop =>
    cases h; exact congrArg (· + 1) (impliedCycle_busCalls s)
  case bcc d | bcs d | beq d | bne d | bmi d | bpl d | bvc d | bvs d =>
    cases h; rw [branch_busCalls]; exact Nat.add_right_comm ..
  case jmp m => cases m <;> cases h <;> rfl
  case jsr w => rw [execJsr_busCalls h]; rfl
  case rts => rw [execRts_busCalls h]; rfl
  case pha | php => cases h; rw [push_busCalls, impliedCycle_busCalls]; rfl
  case pla | plp => cases h; exact congrArg (· + 2) (beforePull_busCalls s)
  case brk => cases h; rw [takeInterrupt_busCalls]; rfl
  case rti => cases h; rw [returnFromInterrupt_busCalls, beforePull_busCalls]; rfl
  case illegal => cases hi

/-- Settles O25: every instruction completes, and `exec_busCalls` counts its bus calls. -/
theorem everyInstructionTakesItsCycles : Obligations.EveryInstructionTakesItsCycles := by
  intro i s _ hi
  obtain ⟨t, ht⟩ := exec_completes i s
  exact ⟨t, ht, exec_busCalls hi ht⟩

end Sys2Proof.Machine
end

section
/-! The fetch of an instruction inside a step (R129, R267): the instruction is the one that the bytes answered at PC decode
to, and it starts after as many fetches as it has bytes, less JSR's last (R123). -/

namespace Sys2Proof.Machine

theorem fetchedBytes_eq_length {i : Instr} {op : Byte} (h : opcode i = some op) (other : op ≠ 0x20#8) :
    fetchedBytes i = i.length := by
  cases i
  case jsr => cases h; exact absurd rfl other
  all_goals rfl

/-- The fetches before the meaning: the opcode, and the operand bytes that the step fetches. -/
theorem fetchedBytes_decodeOp (op b1 b2 : Byte) : fetchedBytes (decodeOp op b1 b2) = operandFetches op + 1 := by
  unfold operandFetches
  split
  case isTrue jsr => subst jsr; rfl
  case isFalse other =>
    rw [fetchedBytes_eq_length (opcode_decodeOp op b1 b2) other, length_decodeOp]
    have := lengthOf_bounds op
    omega

theorem lengthOf_cases (op : Byte) : lengthOf op = 1 ∨ lengthOf op = 2 ∨ lengthOf op = 3 := by
  have := lengthOf_bounds op
  omega

/-- A step's fetch: as many of the next two bytes are operands as the opcode says. JSR's second one is only looked at. -/
theorem fetchInstr_eq (s : State) :
    fetchInstr s =
      (instrOf (fetch s).1
         ([(fetch (afterFetches 1 s)).1, (fetch (afterFetches 2 s)).1].take (lengthOf (fetch s).1 - 1)),
       afterFetches (operandFetches (fetch s).1 + 1) s) := by
  unfold fetchInstr
  by_cases jsr : (fetch s).1 = 0x20#8
  · simp only [jsr]; rfl
  · have all : operandFetches (fetch s).1 = lengthOf (fetch s).1 - 1 := if_neg jsr
    obtain len | len | len := lengthOf_cases (fetch s).1
    · simp only [all, len]; rfl
    · simp only [all, len, if_neg jsr]; rfl
    · simp only [all, len]; rfl

theorem fetchInstr_of_decode {s : State} {i : Instr} {rest : List Byte}
    (h : decode [(fetch s).1, (fetch (afterFetches 1 s)).1, (fetch (afterFetches 2 s)).1] = .ok (i, rest)) :
    fetchInstr s = (i, afterFetches (fetchedBytes i) s) := by
  rw [decode_opcode_two_bytes] at h
  cases h
  rw [fetchInstr_eq, instrOf, fetchedBytes_decodeOp]

theorem enterRun_of_running {s : State} (running : s.runState = .running) : enterRun s = s := if_pos running

/-- A turn of the loop that is no Nmi entry (R267). -/
theorem step_of_exec {s t : State} (running : s.runState = .running) (quiet : s.nmiPending = false)
    (h : exec (fetchInstr s).1 (fetchInstr s).2 = .next t) : step s = .next (afterInstruction s.busCalls t) := by
  simp [step, enterRun_of_running running, running, quiet, h]

/-- Settles O5: the step's own fetch gives the instruction that the bytes decode to (`fetchInstr_of_decode`), and that
instruction completes. -/
theorem stepRunsTheDecodedInstruction : Obligations.StepRunsTheDecodedInstruction := by
  intro s i rest running quiet h
  obtain ⟨t, ht⟩ := exec_completes i (afterFetches (fetchedBytes i) s)
  rw [ht]
  exact step_of_exec running quiet (by rw [fetchInstr_of_decode h, ht])

/-- A fetch at `w`, after `n` reads and the cycles `e`. -/
theorem fetch_afterCycles (n : Nat) (e : List Event) (w : Word) (s : State) :
    fetch ((s.afterCycles n e).setPc w) =
      (s.answerAfter n w, (s.afterCycles (n + 1) (s.readEvent n w :: e)).setPc (w + 1#16)) := by
  have read : memRead w ((s.afterCycles n e).setPc w) =
    ((memRead w (s.afterCycles n e)).1, (memRead w (s.afterCycles n e)).2.setPc w) := rfl
  rw [fetch, State.setPc_pc, read, memRead_afterCycles]
  rfl

/-- The fetches written out: one read per byte, in order, and PC after them (R35). An instruction has at most 3 bytes. -/
theorem afterFetches_eq (s : State) {n : Nat} (h : n ≤ 3) :
    afterFetches n s =
      (s.afterCycles n
        ([s.readEvent 2 (s.pc + 2#16), s.readEvent 1 (s.pc + 1#16), s.readEvent 0 s.pc].drop (3 - n))).setPc
        (s.pc + BitVec.ofNat 16 n) := by
  have start : s = (s.afterCycles 0 []).setPc s.pc := rfl
  have second : s.pc + 1#16 + 1#16 = s.pc + 2#16 := by rw [BitVec.add_assoc]; rfl
  have third : s.pc + 2#16 + 1#16 = s.pc + 3#16 := by rw [BitVec.add_assoc]; rfl
  interval_cases n
  · rw [BitVec.add_zero]; exact start
  all_goals
    conv_lhs => rw [start]
    simp only [afterFetches, fetch_afterCycles, second, third]
    rfl

/-- The byte that fetch number `n` reads, counted from 0. -/
theorem fetch_afterFetches (s : State) {n : Nat} (h : n ≤ 3) :
    (fetch (afterFetches n s)).1 = s.answerAfter n (s.pc + BitVec.ofNat 16 n) := by
  rw [afterFetches_eq s h, fetch_afterCycles]

theorem fetchedBytes_le_of_decode {bytes rest : List Byte} {i : Instr} (h : decode bytes = .ok (i, rest)) :
    fetchedBytes i ≤ 3 := by
  obtain ⟨op, operands, -, -, rfl⟩ := decode_ok_cases h
  have := lengthOf_bounds op
  rw [instrOf, fetchedBytes_decodeOp, operandFetches]
  split <;> omega

/-- Settles O6: O5 with the fetches written out (`afterFetches_eq`). -/
theorem stepRunsTheBytesTheBusAnswersAtPc : Obligations.StepRunsTheBytesTheBusAnswersAtPc := by
  intro s i rest running quiet h
  have first : (fetch s).1 = s.answerAfter 0 s.pc := by rw [fetch_eq]
  have second := fetch_afterFetches s (n := 1) (by decide)
  have third := fetch_afterFetches s (n := 2) (by decide)
  have fetched := afterFetches_eq s (fetchedBytes_le_of_decode h)
  rw [← first, ← second, ← third] at h
  have decoded := stepRunsTheDecodedInstruction s i rest running quiet h
  rw [fetched] at decoded
  exact decoded

end Sys2Proof.Machine
end

section
/-! Loads, stores and transfers (R150 to R161). A load or a transfer is a register write and the flags-from-value law on
top of bus reads; a store is one byte of memory written on top of them. -/

namespace Sys2Proof.Machine

/-- A load with the flags as the flags-from-value law gives them (R39). -/
theorem loadWith_eq (set : State → Byte → State) (m : ReadMode) (s : State) :
    loadWith set m s =
      (set (readOperand m s).2 (readOperand m s).1).setP (s.p.fromValue (readOperand m s).1) := by
  rw [loadWith, Status.setZN_eq]

/-- Settles O26: the operand read is `BusOnly`, and each load is `loadWith` of its register. -/
theorem loadsWriteTheirRegisterAndZN : Obligations.LoadsWriteTheirRegisterAndZN := fun m s =>
  ⟨readOperand_busOnly m s, congrArg Host.Outcome.next (loadWith_eq State.setA m s),
    congrArg Host.Outcome.next (loadWith_eq State.setX m s), congrArg Host.Outcome.next (loadWith_eq State.setY m s)⟩

/-- The memory after a store: the bus reads before the write leave memory alone (R134). -/
theorem writeOperand_mem (m : MemMode) (v : Byte) (s : State) :
    (writeOperand m v s).mem = s.mem.put (effectiveAddress m s) v := by
  rw [writeOperand, memWrite_mem, resolve_address, (resolve_busOnly .write m s).mem_eq, Memory.put]

theorem writeOperand_memoryOnly (m : MemMode) (v : Byte) (s : State) : MemoryOnly s (writeOperand m v s) := by
  rw [writeOperand_eq]; rfl

/-- Each store writes its own register to its operand (R153 to R155). -/
theorem exec_store {m : MemMode} {s : State} {i : Instr} {v : Byte}
    (h : (i, v) ∈ [(Instr.sta m, s.a), (.stx m, s.x), (.sty m, s.y)]) : exec i s = .next (writeOperand m v s) := by
  simp only [List.mem_cons, List.not_mem_nil, or_false, Prod.mk.injEq] at h
  obtain ⟨rfl, rfl⟩ | ⟨rfl, rfl⟩ | ⟨rfl, rfl⟩ := h <;> rfl

/-- Settles O27: a store is one `Memory.put` (`writeOperand_mem`), and memory is RAM (`memoryIsRam`). -/
theorem storesWriteOneByteOfMemory : Obligations.StoresWriteOneByteOfMemory := by
  intro m s wf i v h
  obtain ⟨-, written, others⟩ := memoryIsRam s.mem (effectiveAddress m s) v wf
  rw [← writeOperand_mem] at written others
  exact ⟨exec_store h, writeOperand_memoryOnly m v s, written, others⟩

/-- The second cycle of an implied instruction, with the byte it reads and discards (R111). -/
theorem impliedCycle_eq (s : State) : impliedCycle s = s.afterCycles 1 [.read s.pc (busAnswer s.pc s)] := by
  rw [impliedCycle, dummyRead_eq, State.readEvent, busAnswer_eq]

/-- A transfer with its dummy read and the flags as the flags-from-value law gives them (R39, R111). -/
theorem transferWith_eq (set : State → Byte → State) (v : Byte) (s : State) :
    transferWith set v s =
      (set (s.afterCycles 1 [.read s.pc (busAnswer s.pc s)]) v).setP (s.p.fromValue v) := by
  rw [transferWith, impliedCycle_eq, Status.setZN_eq]

/-- Settles O28: each transfer but TXS is `transferWith`; TXS moves X to S after the implied cycle and leaves the flags. -/
theorem transfersMoveOneRegister : Obligations.TransfersMoveOneRegister := by
  refine ⟨by decide, fun s => ⟨?tax, ?tay, ?txa, ?tya, ?tsx, ?txs⟩⟩
  case tax => exact congrArg Host.Outcome.next (transferWith_eq State.setX s.a s)
  case tay => exact congrArg Host.Outcome.next (transferWith_eq State.setY s.a s)
  case txa => exact congrArg Host.Outcome.next (transferWith_eq State.setA s.x s)
  case tya => exact congrArg Host.Outcome.next (transferWith_eq State.setA s.y s)
  case tsx => exact congrArg Host.Outcome.next (transferWith_eq State.setX s.sp s)
  case txs => exact congrArg Host.Outcome.next (congrArg (State.setSp · s.x) (impliedCycle_eq s))

end Sys2Proof.Machine
end

section
/-! Arithmetic, logic, compare and bit test (R165 to R177): the sums of the spec on integers, and each instruction as
the bus cycles of its operand with A and the flags written on top of them. -/

namespace Sys2Proof.Machine

/-- Masking with 0x80 tests bit 7. -/
theorem and_0x80_ne_zero (v : Byte) : (v &&& 0x80#8 != 0#8) = v.msb := by
  have h : v &&& 0x80#8 = if v.getLsbD 7 then 0x80#8 else 0#8 := BitVec.and_twoPow v 7
  rw [h, BitVec.msb_eq_getLsbD_last]
  cases v.getLsbD 7 <;> rfl

/-- The overflow test of R165 and R167 as the sign rule. -/
theorem overflowTest_eq (a b r : Byte) :
    ((~~~(a ^^^ b) &&& (a ^^^ r) &&& 0x80#8) != 0#8) = decide (a.msb = b.msb ∧ r.msb ≠ a.msb) := by
  rw [and_0x80_ne_zero, BitVec.msb_and, BitVec.msb_not, BitVec.msb_xor, BitVec.msb_xor]
  cases a.msb <;> cases b.msb <;> cases r.msb <;> rfl

/-- The sign rule on the sum modulo 256 is the signed overflow (R165). -/
theorem signRule_iff_signedOverflow {a b r : Byte} {cin : Bool} (hr : r.toNat = (a.toNat + b.toNat + cin.toNat) % 256) :
    (a.msb = b.msb ∧ r.msb ≠ a.msb) ↔
      (a.toInt + b.toInt + cin.toNat < -128 ∨ 127 < a.toInt + b.toInt + cin.toNat) := by
  have ha := a.isLt
  have hb := b.isLt
  have hc := cin.toNat_le
  simp only [BitVec.toInt_eq_toNat_cond, BitVec.msb_eq_decide, decide_eq_decide, ne_eq]
  omega

theorem addBin_value_toNat (a b : Byte) (cin : Bool) :
    (addBin a b cin).value.toNat = (a.toNat + b.toNat + cin.toNat) % 256 := BitVec.toNat_ofNat _ 8

theorem addBin_carry (a b : Byte) (cin : Bool) :
    (addBin a b cin).carry = decide (256 ≤ a.toNat + b.toNat + cin.toNat) := rfl

theorem addBin_overflow (a b : Byte) (cin : Bool) :
    (addBin a b cin).overflow = decide (a.msb = b.msb ∧ (addBin a b cin).value.msb ≠ a.msb) := overflowTest_eq a b _

theorem addBin_signedOverflow (a b : Byte) (cin : Bool) :
    (addBin a b cin).overflow =
      decide (a.toInt + b.toInt + cin.toNat < -128 ∨ 127 < a.toInt + b.toInt + cin.toNat) := by
  rw [addBin_overflow]
  exact decide_eq_decide.mpr (signRule_iff_signedOverflow (addBin_value_toNat a b cin))

/-- Settles O29: `addBin` on integers, with the overflow once as the sign rule and once as the signed range. -/
theorem binaryAddCarryAndOverflow : Obligations.BinaryAddCarryAndOverflow := by
  intro a b cin r
  refine ⟨addBin_value_toNat a b cin, ?_, ?_, ?_⟩
  · rw [addBin_carry, decide_eq_true_iff]
  · rw [addBin_overflow, decide_eq_true_iff]
  · rw [addBin_signedOverflow, decide_eq_true_iff]

/-- `~M` is `-M - 1` in two's complement, so that adding it with the carry subtracts M and the borrow (R168). -/
theorem not_toInt (m : Byte) : (~~~m).toInt = -m.toInt - 1 := by
  have := m.isLt
  simp only [BitVec.toInt_eq_toNat_cond, BitVec.toNat_not]
  omega

theorem subBin_value_toNat (a m : Byte) (cin : Bool) :
    ((subBin a m cin).value.toNat : Int) = ((a.toNat : Int) - m.toNat - (1 - cin.toNat)) % 256 := by
  have := m.isLt
  rw [subBin, addBin_value_toNat, BitVec.toNat_not]
  omega

/-- C = 1 is no borrow (R168). -/
theorem subBin_carry (a m : Byte) (cin : Bool) :
    (subBin a m cin).carry = decide (m.toNat + 1 ≤ a.toNat + cin.toNat) := by
  have := m.isLt
  rw [subBin, addBin_carry, BitVec.toNat_not, decide_eq_decide]
  omega

theorem subBin_signedOverflow (a m : Byte) (cin : Bool) :
    (subBin a m cin).overflow =
      decide (a.toInt - m.toInt - (1 - cin.toNat) < -128 ∨ 127 < a.toInt - m.toInt - (1 - cin.toNat)) := by
  rw [subBin, addBin_signedOverflow, not_toInt, decide_eq_decide]
  omega

/-- The sum `t` of R167 before its decimal adjustment: the high nibbles and the adjusted sum of the low ones. -/
def decimalAddIntermediate (a m : Byte) (cin : Bool) : Nat :=
  let lo := a.toNat % 16 + m.toNat % 16 + cin.toNat
  (a.toNat - a.toNat % 16) + (m.toNat - m.toNat % 16) + (if 10 ≤ lo then (lo + 6) % 16 + 16 else lo)

/-- The adjustment of the high digit of a decimal sum (R167). -/
def decimalAdjust (t : Nat) : Nat := if 0xA0 ≤ t then t + 0x60 else t

/-- The computation of R167, with V as the sign rule on the intermediate sum. -/
theorem decimalAdd_eq (a m : Byte) (cin : Bool) :
    decimalAdd a m cin =
      { value := BitVec.ofNat 8 (decimalAdjust (decimalAddIntermediate a m cin))
        carry := decide (0x100 ≤ decimalAdjust (decimalAddIntermediate a m cin))
        overflow := decide (a.msb = m.msb ∧ (BitVec.ofNat 8 (decimalAddIntermediate a m cin)).msb ≠ a.msb) } := by
  rw [← overflowTest_eq, BitVec.and_comm (~~~(a ^^^ m))]
  rfl

theorem validBcd_iff (b : Byte) : validBcd b = true ↔ b.toNat % 16 ≤ 9 ∧ b.toNat / 16 ≤ 9 := by
  simp [validBcd]

/-- `t` is a decimal number written in hexadecimal digits: its ones digit is at most 9 and its value is `n`. -/
def IsBcdOf (t n : Int) : Prop := t % 16 ≤ 9 ∧ t / 16 * 10 + t % 16 = n

/-- Adjusting the low digit carries decimally into the high ones (R167). -/
theorem decimalAddIntermediate_isBcdOf {a m : Byte} (cin : Bool) (ha : validBcd a = true) (hm : validBcd m = true) :
    IsBcdOf (decimalAddIntermediate a m cin) (bcdValue a + bcdValue m + cin.toNat) := by
  have hc := cin.toNat_le
  rw [validBcd_iff] at ha hm
  simp only [IsBcdOf, decimalAddIntermediate, bcdValue]
  split <;> omega

/-- Adjusting the high digit takes 100 into the carry (R167). -/
theorem decimalAdjust_bcd {t n : Nat} (h : IsBcdOf t n) (hn : n < 200) :
    validBcd (BitVec.ofNat 8 (decimalAdjust t)) = true ∧
      bcdValue (BitVec.ofNat 8 (decimalAdjust t)) + 100 * (decide (0x100 ≤ decimalAdjust t)).toNat = n := by
  obtain ⟨digit, value⟩ := h
  rw [validBcd_iff, bcdValue, BitVec.toNat_ofNat, Bool.toNat, Bool.cond_decide, decimalAdjust]
  split <;> split <;> omega

theorem bcdValue_le {b : Byte} (h : validBcd b = true) : bcdValue b ≤ 99 := by
  rw [validBcd_iff] at h
  rw [bcdValue]
  omega

/-- R167 on decimal digits: the sum of two valid BCD bytes is valid BCD, and its carry is worth 100. -/
theorem decimalAdd_bcd {a m : Byte} (cin : Bool) (ha : validBcd a = true) (hm : validBcd m = true) :
    validBcd (decimalAdd a m cin).value = true ∧
      bcdValue (decimalAdd a m cin).value + 100 * (decimalAdd a m cin).carry.toNat =
        bcdValue a + bcdValue m + cin.toNat := by
  have hc := cin.toNat_le
  have hbound := Nat.add_le_add (bcdValue_le ha) (bcdValue_le hm)
  rw [decimalAdd_eq]
  exact decimalAdjust_bcd (decimalAddIntermediate_isBcdOf cin ha hm) (by omega)

/-- The difference `t` of R169 before its high digit is adjusted. -/
def decimalSubIntermediate (a m : Byte) (cin : Bool) : Int :=
  let lo : Int := (a.toNat % 16 : Nat) - (m.toNat % 16 : Nat) + cin.toNat - 1
  (a.toNat - a.toNat % 16 : Nat) - (m.toNat - m.toNat % 16 : Nat) + (if lo < 0 then (lo - 6) % 16 - 16 else lo)

/-- The adjustment of the high digit of a negative decimal difference (R169). -/
def decimalBorrow (t : Int) : Int := if t < 0 then t - 0x60 else t

/-- The computation of R169. -/
theorem decimalSub_eq (a m : Byte) (cin : Bool) :
    decimalSub a m cin = BitVec.ofInt 8 (decimalBorrow (decimalSubIntermediate a m cin)) := rfl

/-- Adjusting the low digit borrows decimally from the high ones (R169). -/
theorem decimalSubIntermediate_isBcdOf {a m : Byte} (cin : Bool) (ha : validBcd a = true) (hm : validBcd m = true) :
    IsBcdOf (decimalSubIntermediate a m cin) (bcdValue a - bcdValue m - (1 - cin.toNat)) := by
  have hc := cin.toNat_le
  rw [validBcd_iff] at ha hm
  simp only [IsBcdOf, decimalSubIntermediate, bcdValue]
  omega

theorem ofInt_toNat (t : Int) : ((BitVec.ofInt 8 t).toNat : Int) = t % 256 := by
  rw [BitVec.toNat_ofInt]
  exact Int.toNat_of_nonneg (Int.emod_nonneg t (by decide))

/-- Adjusting the high digit of a negative difference adds the 100 borrowed (R169). -/
theorem decimalBorrow_bcd {t n : Int} (h : IsBcdOf t n) (low : -100 ≤ n) (high : n < 100) :
    validBcd (BitVec.ofInt 8 (decimalBorrow t)) = true ∧
      (bcdValue (BitVec.ofInt 8 (decimalBorrow t)) : Int) = n + 100 * (1 - (decide (0 ≤ n)).toNat) := by
  obtain ⟨digit, value⟩ := h
  have range : -160 ≤ t ∧ t < 160 := by omega
  have byte : ((BitVec.ofInt 8 (decimalBorrow t)).toNat : Int) = if t < 0 then t + 160 else t := by
    rw [ofInt_toNat, decimalBorrow]
    split <;> omega
  rw [validBcd_iff, bcdValue, Bool.toNat, Bool.cond_decide]
  split at byte <;> split <;> omega

/-- For valid BCD the binary borrow is the decimal one: the two orders agree (R169). -/
theorem subBin_carry_bcd {a m : Byte} (cin : Bool) (ha : validBcd a = true) (hm : validBcd m = true) :
    (subBin a m cin).carry = decide (0 ≤ (bcdValue a : Int) - bcdValue m - (1 - cin.toNat)) := by
  have hc := cin.toNat_le
  rw [validBcd_iff] at ha hm
  rw [subBin_carry, decide_eq_decide, bcdValue, bcdValue]
  omega

/-- R168, R169 on decimal digits: the difference of two valid BCD bytes is valid BCD, and a borrow is worth 100. -/
theorem decimalSub_bcd {a m : Byte} (cin : Bool) (ha : validBcd a = true) (hm : validBcd m = true) :
    validBcd (decimalSub a m cin) = true ∧
      (bcdValue (decimalSub a m cin) : Int) =
        bcdValue a - bcdValue m - (1 - cin.toNat) + 100 * (1 - (subBin a m cin).carry.toNat) := by
  have hc := cin.toNat_le
  have la := bcdValue_le ha
  have lm := bcdValue_le hm
  rw [decimalSub_eq, subBin_carry_bcd cin ha hm]
  exact decimalBorrow_bcd (decimalSubIntermediate_isBcdOf cin ha hm) (by omega) (by omega)

/-! ### The instructions -/

/-- The flags after an add or subtract, with Z and N as the flags-from-value law gives them (R39). -/
theorem Status.setSum_eq (p : Status) (r : Sum) :
    p.setSum r = { p.fromValue r.value with c := r.carry, v := r.overflow } := by
  rw [Status.setSum, Status.setZN_eq]

/-- The draws used up after bus reads, counted from the state before them (assumption log 4). -/
theorem BusOnly.spendDraws_eq {s t : State} (h : BusOnly s t) :
    t.spendDraws = { t with draws := s.draws + (if s.p.d ∧ s.params.decimalMode = .draw then 2 else 0) } := by
  obtain ⟨-, -, -, -, -, hp, hparams, hdraws⟩ := h.fields
  rw [← hp, ← hparams, ← hdraws, State.spendDraws]
  split <;> rfl

/-- ADC and SBC as the operand's bus cycles with A, the flags and the draw counter written. -/
theorem sumWith_eq (sum : State → Byte → Sum) (m : ReadMode) (s : State) :
    sumWith sum m s =
      { (readOperand m s).2 with
        a := (sum s (readOperand m s).1).value
        p := { s.p.fromValue (sum s (readOperand m s).1).value with
          c := (sum s (readOperand m s).1).carry
          v := (sum s (readOperand m s).1).overflow }
        draws := s.draws + (if s.p.d ∧ s.params.decimalMode = .draw then 2 else 0) } := by
  rw [sumWith, (readOperand_busOnly m s).spendDraws_eq, Status.setSum_eq]
  rfl

/-- Settles O30: the operand read is `BusOnly`, and both instructions are `sumWith` of their sum. -/
theorem adcAndSbcWriteAAndFourFlags : Obligations.AdcAndSbcWriteAAndFourFlags := by
  refine fun m s => ⟨readOperand_busOnly m s, fun i r h => ?_⟩
  simp only [List.mem_cons, List.not_mem_nil, or_false, Prod.mk.injEq] at h
  obtain ⟨rfl, rfl⟩ | ⟨rfl, rfl⟩ := h
  · exact congrArg Host.Outcome.next (sumWith_eq adcSum m s)
  · exact congrArg Host.Outcome.next (sumWith_eq sbcSum m s)

theorem adcSum_binary {s : State} (h : s.p.d = false) (v : Byte) : adcSum s v = addBin s.a v s.p.c := by
  simp [adcSum, h]

theorem sbcSum_binary {s : State} (h : s.p.d = false) (v : Byte) : sbcSum s v = subBin s.a v s.p.c := by
  simp [sbcSum, h]

@[simp] theorem sumWith_a (sum : State → Byte → Sum) (m : ReadMode) (s : State) :
    (sumWith sum m s).a = (sum s (readOperand m s).1).value := rfl

@[simp] theorem sumWith_c (sum : State → Byte → Sum) (m : ReadMode) (s : State) :
    (sumWith sum m s).p.c = (sum s (readOperand m s).1).carry := rfl

@[simp] theorem sumWith_v (sum : State → Byte → Sum) (m : ReadMode) (s : State) :
    (sumWith sum m s).p.v = (sum s (readOperand m s).1).overflow := rfl

/-- Settles O31: with D = 0 the sum is `addBin`. -/
theorem binaryAdcAddsWithCarry : Obligations.BinaryAdcAddsWithCarry := by
  intro m s hd v
  refine ⟨sumWith adcSum m s, rfl, ?_⟩
  rw [sumWith_a, sumWith_c, sumWith_v, adcSum_binary hd, addBin_carry, addBin_signedOverflow, decide_eq_true_iff,
    decide_eq_true_iff]
  exact ⟨addBin_value_toNat s.a v s.p.c, Iff.rfl, Iff.rfl⟩

/-- Settles O32: with D = 0 the difference is `subBin`. -/
theorem binarySbcSubtractsWithBorrow : Obligations.BinarySbcSubtractsWithBorrow := by
  intro m s hd v
  refine ⟨sumWith sbcSum m s, rfl, ?_⟩
  rw [sumWith_a, sumWith_c, sumWith_v, sbcSum_binary hd, subBin_carry, subBin_signedOverflow, decide_eq_true_iff,
    decide_eq_true_iff]
  exact ⟨subBin_value_toNat s.a v s.p.c, Iff.rfl, Iff.rfl⟩

theorem adcSum_reference {s : State} (hd : s.p.d = true) (hm : s.params.decimalMode = .reference) (v : Byte) :
    adcSum s v = decimalAdd s.a v s.p.c := by
  simp [adcSum, decimalAdc, hd, hm]

/-- The difference of R168 and R169 in decimal mode: the byte by the digits, C and V by the binary difference. -/
theorem sbcSum_reference {s : State} (hd : s.p.d = true) (hm : s.params.decimalMode = .reference) (v : Byte) :
    sbcSum s v = { subBin s.a v s.p.c with value := decimalSub s.a v s.p.c } := by
  simp [sbcSum, decimalSbc, hd, hm]

theorem adcSum_draw {s : State} (hd : s.p.d = true) (hm : s.params.decimalMode = .draw) (v : Byte) :
    adcSum s v = drawSum s.draws s.a v (decimalAdd s.a v s.p.c) := by
  simp [adcSum, decimalAdc, hd, hm]

theorem sbcSum_draw {s : State} (hd : s.p.d = true) (hm : s.params.decimalMode = .draw) (v : Byte) :
    sbcSum s v = drawSum s.draws s.a v { subBin s.a v s.p.c with value := decimalSub s.a v s.p.c } := by
  simp [sbcSum, decimalSbc, hd, hm]

/-- For valid BCD a draw leaves the documented byte and carry. -/
theorem drawSum_valid {a m : Byte} (ha : validBcd a = true) (hm : validBcd m = true) (k : Nat) (r : Sum) :
    (drawSum k a m r).value = r.value ∧ (drawSum k a m r).carry = r.carry := by
  simp [drawSum, ha, hm]

/-- For other operands the byte and the carry are free values. -/
theorem drawSum_invalid {a m : Byte} (h : ¬ (validBcd a = true ∧ validBcd m = true)) (k : Nat) (r : Sum) :
    (drawSum k a m r).value = Config.freeByte k ∧ (drawSum k a m r).carry = Config.freeBit k := by
  simp [drawSum, h]

/-- For valid BCD the byte and the carry of ADC do not depend on DECIMAL_UNDOC_MODE (R167). -/
theorem adcSum_validBcd {s : State} {v : Byte} (hd : s.p.d = true) (ha : validBcd s.a = true) (hv : validBcd v = true) :
    (adcSum s v).value = (decimalAdd s.a v s.p.c).value ∧ (adcSum s v).carry = (decimalAdd s.a v s.p.c).carry := by
  cases hm : s.params.decimalMode
  case reference => rw [adcSum_reference hd hm]; exact ⟨rfl, rfl⟩
  case draw => rw [adcSum_draw hd hm]; exact drawSum_valid ha hv _ _

/-- For valid BCD the byte and the carry of SBC do not depend on DECIMAL_UNDOC_MODE (R169). -/
theorem sbcSum_validBcd {s : State} {v : Byte} (hd : s.p.d = true) (ha : validBcd s.a = true) (hv : validBcd v = true) :
    (sbcSum s v).value = decimalSub s.a v s.p.c ∧ (sbcSum s v).carry = (subBin s.a v s.p.c).carry := by
  cases hm : s.params.decimalMode
  case reference => rw [sbcSum_reference hd hm]; exact ⟨rfl, rfl⟩
  case draw => rw [sbcSum_draw hd hm]; exact drawSum_valid ha hv _ _

/-- Under Reference no draws are used up, so that ADC and SBC write only A and the flags. -/
theorem sumWith_reference {s : State} (hm : s.params.decimalMode = .reference) (sum : State → Byte → Sum)
    (m : ReadMode) :
    sumWith sum m s =
      { (readOperand m s).2 with
        a := (sum s (readOperand m s).1).value
        p := { s.p.fromValue (sum s (readOperand m s).1).value with
          c := (sum s (readOperand m s).1).carry
          v := (sum s (readOperand m s).1).overflow } } := by
  obtain ⟨-, -, -, -, -, -, -, hdraws⟩ := (readOperand_busOnly m s).fields
  rw [sumWith_eq, hm, if_neg (by simp), Nat.add_zero, ← hdraws]

/-- What an ADC or SBC whose sum is `drawSum` leaves in V, A, C and the draw counter (assumption log 4). -/
theorem sumWith_draw {s : State} {sum : State → Byte → Sum} {m : ReadMode} {documented : Sum} (hd : s.p.d = true)
    (hm : s.params.decimalMode = .draw)
    (h : sum s (readOperand m s).1 = drawSum s.draws s.a (readOperand m s).1 documented) :
    (sumWith sum m s).p.v = Config.freeBit (s.draws + 1) ∧ (sumWith sum m s).draws = s.draws + 2 ∧
      (¬ (validBcd s.a = true ∧ validBcd (readOperand m s).1 = true) →
        (sumWith sum m s).a = Config.freeByte s.draws ∧ (sumWith sum m s).p.c = Config.freeBit s.draws) := by
  refine ⟨?_, ?_, fun invalid => ?_⟩
  · rw [sumWith_v, h, drawSum]
  · rw [sumWith_eq, if_pos ⟨hd, hm⟩]
  · rw [sumWith_a, sumWith_c, h]
    exact drawSum_invalid invalid _ _

/-- Settles O35: under Reference the sums are `decimalAdd` (`decimalAdd_eq`) and `decimalSub` with the flags of
`subBin`; under Draw they are `drawSum`. -/
theorem decimalArithmeticOfEveryOperand : Obligations.DecimalArithmeticOfEveryOperand := by
  intro m s hd v a b c
  refine ⟨fun hm => ?adc, fun hm => ?sbc, fun hm i hi => ?draw⟩
  case adc =>
    refine congrArg Host.Outcome.next ((sumWith_reference hm adcSum m).trans ?_)
    rw [adcSum_reference hd hm, decimalAdd_eq]
    rfl
  case sbc =>
    refine congrArg Host.Outcome.next ((sumWith_reference hm sbcSum m).trans ?_)
    rw [sbcSum_reference hd hm, subBin_carry, subBin_signedOverflow]
    rfl
  case draw =>
    simp only [List.mem_cons, List.not_mem_nil, or_false] at hi
    obtain rfl | rfl := hi
    · exact ⟨_, rfl, sumWith_draw hd hm (adcSum_draw hd hm v)⟩
    · exact ⟨_, rfl, sumWith_draw hd hm (sbcSum_draw hd hm v)⟩

/-- Settles O33: the sum on decimal digits is `decimalAdd_bcd`. -/
theorem decimalAdcAddsBcd : Obligations.DecimalAdcAddsBcd := by
  intro m s hd v ha hv
  obtain ⟨value, carry⟩ := adcSum_validBcd hd ha hv
  refine ⟨sumWith adcSum m s, rfl, ?_⟩
  rw [sumWith_a, sumWith_c, value, carry]
  exact decimalAdd_bcd s.p.c ha hv

/-- Settles O34: the difference on decimal digits is `decimalSub_bcd`. -/
theorem decimalSbcSubtractsBcd : Obligations.DecimalSbcSubtractsBcd := by
  intro m s hd v ha hv
  obtain ⟨value, carry⟩ := sbcSum_validBcd hd ha hv
  refine ⟨sumWith sbcSum m s, rfl, ?_⟩
  rw [sumWith_a, sumWith_c, value, carry]
  exact decimalSub_bcd s.p.c ha hv

/-- A logic operation with the flags as the flags-from-value law gives them (R39). -/
theorem logicWith_eq (f : Byte → Byte → Byte) (m : ReadMode) (s : State) :
    logicWith f m s =
      { (readOperand m s).2 with
        a := f s.a (readOperand m s).1, p := s.p.fromValue (f s.a (readOperand m s).1) } := by
  rw [logicWith, Status.setZN_eq]
  rfl

/-- Settles O36: the operand read is `BusOnly`, and each operation is `logicWith` of its bitwise function. -/
theorem logicWritesAAndZN : Obligations.LogicWritesAAndZN := by
  refine fun m s => ⟨readOperand_busOnly m s, fun i r h => ?_⟩
  simp only [List.mem_cons, List.not_mem_nil, or_false, Prod.mk.injEq] at h
  obtain ⟨rfl, rfl⟩ | ⟨rfl, rfl⟩ | ⟨rfl, rfl⟩ := h
  · exact congrArg Host.Outcome.next (logicWith_eq (· &&& ·) m s)
  · exact congrArg Host.Outcome.next (logicWith_eq (· ||| ·) m s)
  · exact congrArg Host.Outcome.next (logicWith_eq (· ^^^ ·) m s)

/-- Equality of bytes as equality of their numbers. -/
theorem beq_eq_decide_toNat (a b : Byte) : (a == b) = decide (a.toNat = b.toNat) := by
  rw [Bool.eq_iff_iff, beq_iff_eq, decide_eq_true_iff, BitVec.toNat_inj]

/-- The flags of a compare on integers (R173). -/
theorem Status.compare_eq (p : Status) (r v : Byte) :
    p.compare r v =
      { p with
        c := decide (v.toNat ≤ r.toNat)
        z := decide (r.toNat = v.toNat)
        n := decide (128 ≤ (256 + r.toNat - v.toNat) % 256) } := by
  have hv := v.isLt
  have difference : (r - v).toNat = (256 + r.toNat - v.toNat) % 256 := by rw [BitVec.toNat_sub]; omega
  rw [Status.compare, beq_eq_decide_toNat, bit7_eq, difference]

/-- A compare is the operand's bus cycles with the flags written. -/
theorem compareWith_eq (reg : Byte) (m : ReadMode) (s : State) :
    compareWith reg m s = { (readOperand m s).2 with p := s.p.compare reg (readOperand m s).1 } := rfl

/-- Settles O37: the operand read is `BusOnly`, and each compare is `compareWith` of its register. -/
theorem comparesSetCZNOnly : Obligations.ComparesSetCZNOnly := by
  refine fun m s => ⟨readOperand_busOnly m s, fun i r h => ?_⟩
  simp only [← Status.compare_eq, ← compareWith_eq]
  simp only [List.mem_cons, List.not_mem_nil, or_false, Prod.mk.injEq] at h
  obtain ⟨rfl, rfl⟩ | ⟨rfl, rfl⟩ | ⟨rfl, rfl⟩ := h <;> rfl

/-- Bit 6 of a byte as a number. -/
theorem bit6_eq (v : Byte) : v.getLsbD 6 = decide (64 ≤ v.toNat % 128) := by
  rw [BitVec.getLsbD, Nat.testBit_eq_decide_div_mod_eq, decide_eq_decide]
  omega

/-- The flags of BIT on integers (R177). -/
theorem Status.bitTest_eq (p : Status) (a v : Byte) :
    p.bitTest a v =
      { p with
        n := decide (128 ≤ v.toNat)
        v := decide (64 ≤ v.toNat % 128)
        z := decide ((a &&& v).toNat = 0) } := by
  rw [Status.bitTest, beq_eq_decide_toNat, bit7_eq, bit6_eq]
  rfl

/-- Settles O38: the operand read is `BusOnly`, and the flags are those of `Status.bitTest`. -/
theorem bitTakesNVFromTheOperand : Obligations.BitTakesNVFromTheOperand := by
  refine fun m s => ⟨readOperand_busOnly m s, ?_⟩
  rw [← Status.bitTest_eq]
  rfl

end Sys2Proof.Machine
end

section
/-! Shifts, rotates, increments and decrements (R190 to R199). The functions of the rules and their flags are put on
integers once; a shift of the accumulator, a read-modify-write of memory and a step of an index register are then the
bus cycles of the operand with the result written on top of them. -/

namespace Sys2Proof.Machine

/-! ### The functions of the rules on integers -/

theorem shiftLeft_toNat (m : Byte) : (shiftLeft m).toNat = m.toNat * 2 % 256 := BitVec.toNat_ofNat ..

theorem shiftRight_toNat (m : Byte) : (shiftRight m).toNat = m.toNat / 2 := by
  rw [shiftRight, BitVec.toNat_ofNat]
  exact Nat.mod_eq_of_lt (by omega)

/-- The bit C of ROL comes in below the byte, where the doubled byte has a 0: the rotated byte is the low eight of nine
bits (R192). -/
theorem rotateLeft_eq_concat (c : Bool) (m : Byte) : rotateLeft c m = (m.concat c).setWidth 8 := by
  have disjoint : m.toNat * 2 ||| c.toNat = m.toNat * 2 + c.toNat := by
    rw [Nat.mul_comm]
    exact (Nat.two_pow_add_eq_or_of_lt (i := 1) c.toNat_lt m.toNat).symm
  rw [rotateLeft, ← BitVec.ofNat_or, disjoint, ← BitVec.toNat_concat, BitVec.ofNat_toNat]

theorem rotateLeft_toNat (c : Bool) (m : Byte) : (rotateLeft c m).toNat = m.toNat * 2 % 256 + c.toNat := by
  have hc := c.toNat_lt
  rw [rotateLeft_eq_concat, BitVec.toNat_setWidth, BitVec.toNat_concat]
  omega

/-- The bit C of ROR comes in above the halved byte, which has seven bits (R193). -/
theorem rotateRight_toNat (c : Bool) (m : Byte) : (rotateRight c m).toNat = c.toNat * 128 + m.toNat / 2 := by
  have hc := c.toNat_lt
  have disjoint : c.toNat * 128 ||| m.toNat / 2 = c.toNat * 128 + m.toNat / 2 := by
    rw [Nat.mul_comm]
    exact (Nat.two_pow_add_eq_or_of_lt (i := 7) (by omega) c.toNat).symm
  rw [rotateRight, ← BitVec.ofNat_or, disjoint, BitVec.toNat_ofNat]
  omega

theorem increment_toNat (m : Byte) : (increment m).toNat = (m.toNat + 1) % 256 := BitVec.toNat_ofNat ..

theorem decrement_toNat (m : Byte) : (decrement m).toNat = (m.toNat + 255) % 256 := BitVec.toNat_ofNat ..

theorem bit0_eq (v : Byte) : v.getLsbD 0 = decide (v.toNat % 2 = 1) := by
  rw [BitVec.getLsbD, Nat.testBit_zero]

/-- A byte function given by its numbers. -/
theorem ofNat_of_toNat {f : Nat → Nat} {g : Byte → Byte} (h : ∀ m : Byte, (g m).toNat = f m.toNat) (m : Byte) :
    BitVec.ofNat 8 (f m.toNat) = g m := by
  rw [← h, BitVec.ofNat_toNat, BitVec.setWidth_eq]

/-- What a rule of R190 to R193 says on integers: the byte M becomes `f M`, C becomes the bit `out M`, and Z and N
follow the new byte. -/
structure ShiftRule (g : Byte → Byte) (flags : Status → Byte → Byte → Status) (f : Nat → Nat) (out : Nat → Bool) :
    Prop where
  value : ∀ m : Byte, (g m).toNat = f m.toNat
  status : ∀ p m r, flags p m r = { p.fromValue r with c := out m.toNat }

theorem Status.shiftedLeft_eq (p : Status) (m r : Byte) :
    p.shiftedLeft m r = { p.fromValue r with c := decide (128 ≤ m.toNat) } := by
  rw [Status.shiftedLeft, Status.setZN_eq, bit7_eq]

theorem Status.shiftedRight_eq (p : Status) (m r : Byte) :
    p.shiftedRight m r = { p.fromValue r with c := decide (m.toNat % 2 = 1) } := by
  rw [Status.shiftedRight, Status.setZN_eq, bit0_eq]

theorem shiftLeft_shiftRule : ShiftRule shiftLeft Status.shiftedLeft (fun v => v * 2 % 256) fun v => decide (128 ≤ v) :=
  ⟨shiftLeft_toNat, Status.shiftedLeft_eq⟩

theorem shiftRight_shiftRule : ShiftRule shiftRight Status.shiftedRight (fun v => v / 2) fun v => decide (v % 2 = 1) :=
  ⟨shiftRight_toNat, Status.shiftedRight_eq⟩

theorem rotateLeft_shiftRule (c : Bool) :
    ShiftRule (rotateLeft c) Status.shiftedLeft (fun v => v * 2 % 256 + c.toNat) fun v => decide (128 ≤ v) :=
  ⟨rotateLeft_toNat c, Status.shiftedLeft_eq⟩

theorem rotateRight_shiftRule (c : Bool) :
    ShiftRule (rotateRight c) Status.shiftedRight (fun v => c.toNat * 128 + v / 2) fun v => decide (v % 2 = 1) :=
  ⟨rotateRight_toNat c, Status.shiftedRight_eq⟩

/-! ### The accumulator -/

/-- A shift of the accumulator: the dummy read of R111, A and the flags. -/
theorem ShiftRule.shiftWith_acc {g : Byte → Byte} {flags : Status → Byte → Byte → Status} {f : Nat → Nat}
    {out : Nat → Bool} (rule : ShiftRule g flags f out) (s : State) :
    shiftWith g flags .acc s =
      { s.afterCycles 1 [.read s.pc (busAnswer s.pc s)] with
        a := BitVec.ofNat 8 (f s.a.toNat)
        p := { s.p.fromValue (BitVec.ofNat 8 (f s.a.toNat)) with c := out s.a.toNat } } := by
  rw [← impliedCycle_eq, ofNat_of_toNat rule.value, ← rule.status]
  rfl

/-- Settles O39: each shift is `shiftWith` of its rule. -/
theorem shiftsActOnTheAccumulator : Obligations.ShiftsActOnTheAccumulator := by
  intro s a c i r out h
  simp only [List.mem_cons, List.not_mem_nil, or_false, Prod.mk.injEq] at h
  obtain ⟨rfl, rfl, rfl⟩ | ⟨rfl, rfl, rfl⟩ | ⟨rfl, rfl, rfl⟩ | ⟨rfl, rfl, rfl⟩ := h
  · exact congrArg Host.Outcome.next (shiftLeft_shiftRule.shiftWith_acc s)
  · exact congrArg Host.Outcome.next (shiftRight_shiftRule.shiftWith_acc s)
  · exact congrArg Host.Outcome.next ((rotateLeft_shiftRule s.p.c).shiftWith_acc s)
  · exact congrArg Host.Outcome.next ((rotateRight_shiftRule s.p.c).shiftWith_acc s)

/-! ### Memory -/

/-- The byte a read-modify-write operand gives: the bus's answer at the effective address, after the mode's reads. -/
def operandByte (m : MemMode) (s : State) : Byte :=
  s.answerAfter (addressEvents .modify m s).length (effectiveAddress m s)

/-- A read-modify-write operand in memory: the mode's cycles and the last three (R117). -/
theorem modifyMemory_eq (m : MemMode) (g : Byte → Byte) (s : State) :
    modifyMemory m g s =
      (operandByte m s,
       { s.afterCycles ((addressEvents .modify m s).length + 1)
           (.write (effectiveAddress m s) (g (operandByte m s)) :: .write (effectiveAddress m s) (operandByte m s) ::
             s.readEvent (addressEvents .modify m s).length (effectiveAddress m s) :: addressEvents .modify m s) with
         mem := (s.mem.put (effectiveAddress m s) (operandByte m s)).put (effectiveAddress m s)
           (g (operandByte m s)) }) := by
  rw [modifyMemory, resolve_address, resolve_eq, readModifyWrite_afterCycles]
  rfl

theorem modifyMemory_value (m : MemMode) (g : Byte → Byte) (s : State) : (modifyMemory m g s).1 = operandByte m s := by
  rw [modifyMemory_eq]

/-- A read-modify-write leaves memory with one byte changed: the operand is written back and then replaced (R117), both
at the effective address. -/
theorem modifyMemory_changes_one_byte (m : MemMode) (g : Byte → Byte) {s : State} (wf : Memory.wf s.mem = true) :
    (modifyMemory m g s).2.peek (effectiveAddress m s) = g (operandByte m s) ∧
      ∀ a, a ≠ effectiveAddress m s → (modifyMemory m g s).2.peek a = s.peek a := by
  obtain ⟨wfBack, -, othersBack⟩ := memoryIsRam s.mem (effectiveAddress m s) (operandByte m s) wf
  obtain ⟨-, written, others⟩ := memoryIsRam _ (effectiveAddress m s) (g (operandByte m s)) wfBack
  rw [modifyMemory_eq]
  exact ⟨written, fun a ha => (others a ha).trans (othersBack a ha)⟩

theorem modifyMemory_memoryOnly (m : MemMode) (g : Byte → Byte) (s : State) (p : Status) :
    MemoryOnly { s with p := p } { (modifyMemory m g s).2 with p := p } := by
  rw [modifyMemory_eq]
  rfl

/-- A shift of memory: the operand's cycles and the flags. -/
theorem ShiftRule.shiftWith_mem {g : Byte → Byte} {flags : Status → Byte → Byte → Status} {f : Nat → Nat}
    {out : Nat → Bool} (rule : ShiftRule g flags f out) (m : MemMode) (s : State) :
    shiftWith g flags (.mem m) s =
      { (modifyMemory m g s).2 with
        p := { s.p.fromValue (g (operandByte m s)) with c := out (operandByte m s).toNat } } := by
  rw [shiftWith, modifyOperand, modifyMemory_value, rule.status]
  rfl

/-- INC and DEC: the operand's cycles and the flags, C among those left alone. -/
theorem stepMemoryWith_eq (g : Byte → Byte) (m : MemMode) (s : State) :
    stepMemoryWith g m s = { (modifyMemory m g s).2 with p := s.p.fromValue (g (operandByte m s)) } := by
  rw [stepMemoryWith, modifyMemory_value, Status.setZN_eq]
  rfl

/-- Settles O40: each of the six completes with a byte function `g` that is `f` on integers, and a read-modify-write by
`g` changes one byte of memory. -/
theorem readModifyWritesOneByteOfMemory : Obligations.ReadModifyWritesOneByteOfMemory := by
  intro m s wf ea old c i f out h r t
  obtain ⟨g, value, completes⟩ : ∃ g : Byte → Byte, (∀ b : Byte, (g b).toNat = f b.toNat) ∧
      exec i s = .next
        { (modifyMemory m g s).2 with p := { s.p.fromValue (g (operandByte m s)) with c := out } } := by
    simp only [List.mem_cons, List.not_mem_nil, or_false, Prod.mk.injEq] at h
    obtain ⟨rfl, rfl, rfl⟩ | ⟨rfl, rfl, rfl⟩ | ⟨rfl, rfl, rfl⟩ | ⟨rfl, rfl, rfl⟩ |
      ⟨rfl, rfl, rfl⟩ | ⟨rfl, rfl, rfl⟩ := h
    · exact ⟨_, shiftLeft_shiftRule.value, congrArg Host.Outcome.next (shiftLeft_shiftRule.shiftWith_mem m s)⟩
    · exact ⟨_, shiftRight_shiftRule.value, congrArg Host.Outcome.next (shiftRight_shiftRule.shiftWith_mem m s)⟩
    · exact ⟨_, (rotateLeft_shiftRule s.p.c).value,
        congrArg Host.Outcome.next ((rotateLeft_shiftRule s.p.c).shiftWith_mem m s)⟩
    · exact ⟨_, (rotateRight_shiftRule s.p.c).value,
        congrArg Host.Outcome.next ((rotateRight_shiftRule s.p.c).shiftWith_mem m s)⟩
    · exact ⟨_, increment_toNat, congrArg Host.Outcome.next (stepMemoryWith_eq increment m s)⟩
    · exact ⟨_, decrement_toNat, congrArg Host.Outcome.next (stepMemoryWith_eq decrement m s)⟩
  have ht : t = { (modifyMemory m g s).2 with p := { s.p.fromValue (g (operandByte m s)) with c := out } } := by
    simp only [t, r, old, ofNat_of_toNat value]
    rfl
  obtain ⟨written, others⟩ := modifyMemory_changes_one_byte m g wf
  rw [ht]
  exact ⟨completes, modifyMemory_memoryOnly m g s _, (congrArg BitVec.toNat written).trans (value _), others⟩

/-! ### Nine rotations -/

/-- One ROL of a byte and the flags: the rotated byte, and C the bit rotated out (R192). -/
def rolStep (b : Byte × Status) : Byte × Status :=
  (rotateLeft b.2.c b.1, b.2.shiftedLeft b.1 (rotateLeft b.2.c b.1))

/-- The nine bits that ROL rotates: C above the byte. -/
def carryAndByte (b : Byte × Status) : BitVec 9 := BitVec.cons b.2.c b.1

/-- Bit `i` of nine bits rotated by one comes from one place below, modulo 9. -/
theorem getLsbD_rotateLeft_one (x : BitVec 9) {i : Nat} (hi : i < 9) :
    (x.rotateLeft 1).getLsbD i = x.getLsbD ((i + 8) % 9) := by
  rw [BitVec.getLsbD_rotateLeft]
  rcases i with - | i
  · rfl
  · rw [show (i + 1 + 8) % 9 = i by omega]
    simp [hi]

/-- ROL moves C from above the byte to below it, which rotates the nine bits by one (R192). -/
theorem carryAndByte_rolStep : Function.Semiconj carryAndByte rolStep (BitVec.rotateLeft · 1) := fun (v, p) =>
  calc BitVec.cons (v.getLsbD 7) (rotateLeft p.c v)
      = BitVec.cons (v.concat p.c).msb ((v.concat p.c).setWidth 8) := by
        rw [rotateLeft_eq_concat, BitVec.msb_concat, if_pos (by decide), BitVec.msb_eq_getLsbD_last]
    _ = v.concat p.c := BitVec.cons_msb_setWidth _
    _ = (BitVec.cons p.c v).rotateLeft 1 := by
        refine BitVec.eq_of_getLsbD_eq fun i hi => ?_
        rw [BitVec.getLsbD_concat, getLsbD_rotateLeft_one _ hi, BitVec.getLsbD_cons]
        rcases i with - | i
        · rfl
        · rw [show (i + 1 + 8) % 9 = i by omega, if_neg i.succ_ne_zero, if_neg (by omega), Nat.add_sub_cancel]

theorem getLsbD_iterate_rotateLeft_one (x : BitVec 9) (k : Nat) {i : Nat} (hi : i < 9) :
    ((BitVec.rotateLeft · 1)^[k] x).getLsbD i = x.getLsbD ((i + 8 * k) % 9) := by
  induction k generalizing i with
  | zero => rw [Function.iterate_zero_apply, Nat.mul_zero, Nat.add_zero, Nat.mod_eq_of_lt hi]
  | succ k ih =>
    rw [Function.iterate_succ_apply', getLsbD_rotateLeft_one _ hi, ih (Nat.mod_lt _ (by decide))]
    congr 1
    omega

theorem nine_rotations (x : BitVec 9) : (BitVec.rotateLeft · 1)^[9] x = x := by
  refine BitVec.eq_of_getLsbD_eq fun i hi => ?_
  rw [getLsbD_iterate_rotateLeft_one x 9 hi]
  congr 1
  omega

/-- The nine bits determine the byte and C. -/
theorem carryAndByte_inj {b d : Byte × Status} (h : carryAndByte b = carryAndByte d) : b.1 = d.1 ∧ b.2.c = d.2.c := by
  have low := congrArg (BitVec.setWidth 8) h
  have high := congrArg BitVec.msb h
  rw [carryAndByte, carryAndByte, BitVec.setWidth_cons, BitVec.setWidth_cons] at low
  rw [carryAndByte, carryAndByte, BitVec.msb_cons, BitVec.msb_cons] at high
  exact ⟨low, high⟩

/-- Settles O42: on the nine bits a ROL is a rotation by one, and nine of those are the identity. -/
theorem nineRotationsRestoreTheOperand : Obligations.NineRotationsRestoreTheOperand := fun v p =>
  carryAndByte_inj <|
    calc carryAndByte (rolStep^[9] (v, p))
        = (BitVec.rotateLeft · 1)^[9] (carryAndByte (v, p)) := carryAndByte_rolStep.iterate_right 9 (v, p)
      _ = carryAndByte (v, p) := nine_rotations _

/-! ### Index registers -/

/-- Going up by one modulo 256 (R196, R197). -/
theorem increment_eq (v : Byte) : increment v = v + 1#8 := by
  rw [← BitVec.toNat_inj, increment_toNat, BitVec.toNat_add]
  rfl

/-- Going down by one is adding 255 modulo 256 (R198, R199). -/
theorem decrement_eq (v : Byte) : decrement v = v - 1#8 := by
  rw [← BitVec.toNat_inj, decrement_toNat, BitVec.toNat_sub, Nat.add_comm]
  rfl

/-- A step of an index register, like a transfer, is the implied cycle, a register write and its flags (R111). -/
theorem stepRegisterWith_eq (set : State → Byte → State) (v : Byte) (s : State) :
    stepRegisterWith set v s =
      (set (s.afterCycles 1 [.read s.pc (busAnswer s.pc s)]) v).setP (s.p.fromValue v) :=
  transferWith_eq set v s

/-- Settles O41: each instruction is `stepRegisterWith` of its register. -/
theorem indexRegistersStepByOne : Obligations.IndexRegistersStepByOne := by
  refine ⟨by decide, fun s => ?_⟩
  simp only [← increment_eq, ← decrement_eq]
  refine ⟨?inx, ?iny, ?dex, ?dey⟩
  case inx => exact congrArg Host.Outcome.next (stepRegisterWith_eq State.setX (increment s.x) s)
  case iny => exact congrArg Host.Outcome.next (stepRegisterWith_eq State.setY (increment s.y) s)
  case dex => exact congrArg Host.Outcome.next (stepRegisterWith_eq State.setX (decrement s.x) s)
  case dey => exact congrArg Host.Outcome.next (stepRegisterWith_eq State.setY (decrement s.y) s)

end Sys2Proof.Machine
end

section
/-! Control transfer (R205 to R222): branches, jumps and subroutine linkage. A branch and JMP move PC on top of bus
reads; JSR and RTS move it through the stack, and on a RAM bus the second undoes the first. -/

namespace Sys2Proof.Machine

/-! ### Branches -/

/-- The displacement is added to PC as a signed number, modulo 65536 (R205). -/
theorem add_sext16_eq_ofInt (w : Word) (d : Byte) : w + sext16 d = BitVec.ofInt 16 (w.toNat + d.toInt) := by
  rw [BitVec.ofInt_add, BitVec.ofInt_natCast, BitVec.ofNat_toNat, BitVec.setWidth_eq]
  rfl

theorem readPair_eq_busAnswer (u w : Word) (s : State) :
    readPair u w s =
      (joinBytes (busAnswer w (memRead u s).2) (busAnswer u s),
       s.afterCycles 2 [.read w (busAnswer w (memRead u s).2), .read u (busAnswer u s)]) := by
  rw [readPair_eq, memRead_eq, busAnswer_eq, busAnswer_eq, afterCycles_answerAfter]
  rfl

/-- A branch to its own page makes one dummy read, at PC (R121). -/
theorem branch_true_of_samePage {d : Byte} {s : State} (page : hi (s.pc + sext16 d) = hi s.pc) :
    branch true d s = (impliedCycle s).setPc (s.pc + sext16 d) := by
  simp [branch, otherPage, page, impliedCycle]

/-- A branch to another page makes a second one, before the high byte is corrected (R121). -/
theorem branch_true_of_otherPage {d : Byte} {s : State} (page : hi (s.pc + sext16 d) ≠ hi s.pc) :
    branch true d s =
      (readPair s.pc (joinBytes (hi s.pc) (lo (s.pc + sext16 d))) s).2.setPc (s.pc + sext16 d) := by
  simp [branch, otherPage, page, dummyRead, readPair]

/-- Each branch is `branch` on its flag (R206 to R213). -/
theorem exec_branch {d : Byte} {s : State} {i : Instr} {taken : Bool} (h : (i, taken) ∈
    [(Instr.bcc d, !s.p.c), (.bcs d, s.p.c), (.beq d, s.p.z), (.bne d, !s.p.z), (.bmi d, s.p.n), (.bpl d, !s.p.n),
     (.bvc d, !s.p.v), (.bvs d, s.p.v)]) : exec i s = .next (branch taken d s) := by
  simp only [List.mem_cons, List.not_mem_nil, or_false, Prod.mk.injEq] at h
  obtain ⟨rfl, rfl⟩ | ⟨rfl, rfl⟩ | ⟨rfl, rfl⟩ | ⟨rfl, rfl⟩ | ⟨rfl, rfl⟩ | ⟨rfl, rfl⟩ | ⟨rfl, rfl⟩ | ⟨rfl, rfl⟩ := h
  all_goals rfl

/-- Settles O43: each branch is `branch` on its flag, not taken, taken to the page of PC, or taken out of it. -/
theorem branchesTestOneFlag : Obligations.BranchesTestOneFlag := by
  refine ⟨by decide, fun d s i taken h => ?_⟩
  rw [exec_branch h, ← add_sext16_eq_ofInt]
  refine ⟨?stays, ?samePage, ?otherPage⟩
  case stays => rintro rfl; rfl
  case samePage =>
    rintro rfl page
    rw [branch_true_of_samePage page, impliedCycle_eq]
    rfl
  case otherPage =>
    rintro rfl page
    rw [branch_true_of_otherPage page, readPair_eq_busAnswer]
    rfl

/-! ### Jumps -/

/-- The page quirk in numbers: the byte after the pointer, or the start of the pointer's page (R220). -/
theorem nextInPage_eq (w : Word) : nextInPage w = if (lo w).toNat = 255 then w - 255#16 else w + 1#16 := by
  have hw := w.isLt
  rw [← BitVec.toNat_inj, nextInPage, joinBytes_toNat, BitVec.toNat_add, hi_toNat, lo_toNat]
  split
  case isTrue last => rw [BitVec.toNat_sub, BitVec.toNat_ofNat, BitVec.toNat_ofNat]; omega
  case isFalse inside => rw [BitVec.toNat_add, BitVec.toNat_ofNat, BitVec.toNat_ofNat]; omega

/-- JMP indirect reads the target at the pointer, as a pair in the pointer's page (R120, R122). -/
theorem exec_jmp_ind (w : Word) (s : State) :
    exec (.jmp (.ind w)) s = .next ((readPair w (nextInPage w) s).2.setPc (readPair w (nextInPage w) s).1) := rfl

/-- Settles O44: the pair that JMP indirect reads (`exec_jmp_ind`), its second address in numbers (`nextInPage_eq`). -/
theorem jmpTakesItsTarget : Obligations.JmpTakesItsTarget := by
  refine ⟨fun w => ⟨rfl, rfl⟩, fun w s => ⟨rfl, ?_⟩⟩
  rw [← nextInPage_eq, exec_jmp_ind, readPair_eq_busAnswer]
  rfl

/-! ### Subroutine linkage -/

/-- Memory with PC pushed on the stack, high byte first (R64). -/
def pcPushed (s : State) : Memory := (s.mem.put (stackAddr s.sp) (hi s.pc)).put (stackAddr (s.sp - 1#8)) (lo s.pc)

/-- PC pushed after `n` reads and the cycles `e`: two writes, and S two lower (R64). -/
theorem pushPc_afterCycles (n : Nat) (e : List Event) (s : State) :
    pushPc (s.afterCycles n e) =
      ({ s with mem := pcPushed s }.afterCycles n
        (.write (stackAddr (s.sp - 1#8)) (lo s.pc) :: .write (stackAddr s.sp) (hi s.pc) :: e)).setSp (s.sp - 2#8) := by
  have twoLower : s.sp - 2#8 = s.sp - 1#8 - 1#8 := by bv_omega
  rw [twoLower]
  rfl

/-- The two stack bytes of a pushed PC hold it, for they are two bytes. -/
theorem read_pcPushed {s : State} (wf : Memory.wf s.mem = true) :
    (pcPushed s).read (stackAddr s.sp).toNat = hi s.pc ∧
      (pcPushed s).read (stackAddr (s.sp - 1#8)).toNat = lo s.pc := by
  have apart : stackAddr s.sp ≠ stackAddr (s.sp - 1#8) := fun same => by have := stackAddr_inj same; bv_omega
  obtain ⟨wfHigh, high, -⟩ := memoryIsRam s.mem (stackAddr s.sp) (hi s.pc) wf
  obtain ⟨-, low, others⟩ := memoryIsRam _ (stackAddr (s.sp - 1#8)) (lo s.pc) wfHigh
  exact ⟨(others _ apart).trans high, low⟩

/-- JSR reads the target's high byte at PC after it has pushed PC (R123). -/
theorem exec_jsr (w : Word) (s : State) :
    exec (.jsr w) s =
      let r := memRead s.pc (pushPc (dummyRead (stackAddr s.sp) s))
      .next (r.2.setPc (joinBytes r.1 (lo w))) := rfl

/-- Settles O45: a dummy read, PC pushed (`pushPc_afterCycles`), and one more read, answered after the pushes. -/
theorem jsrPushesItsLastAddress : Obligations.JsrPushesItsLastAddress := by
  refine ⟨fun w => rfl, fun w s => ?_⟩
  rw [exec_jsr, dummyRead_eq, pushPc_afterCycles, memRead_setSp, memRead_afterCycles]
  rfl

theorem beforePull_eq (s : State) :
    beforePull s = s.afterCycles 2 [s.readEvent 1 (stackAddr s.sp), s.readEvent 0 s.pc] := by
  have twoReads : beforePull s = (readPair s.pc (stackAddr s.sp) s).2 := rfl
  rw [twoReads, readPair_eq]

/-- An address pulled after `n` reads and the cycles `e`: two reads, the low byte first, and S two higher (R64). -/
theorem pullWord_afterCycles (n : Nat) (e : List Event) (s : State) :
    pullWord (s.afterCycles n e) =
      (joinBytes (s.answerAfter (n + 1) (stackAddr (s.sp + 2#8))) (s.answerAfter n (stackAddr (s.sp + 1#8))),
       (s.afterCycles (n + 2)
         (s.readEvent (n + 1) (stackAddr (s.sp + 2#8)) :: s.readEvent n (stackAddr (s.sp + 1#8)) :: e)).setSp
         (s.sp + 2#8)) := by
  have twoReads : ∀ t, pullWord t =
      ((readPair (stackAddr (t.sp + 1#8)) (stackAddr (t.sp + 1#8 + 1#8)) t).1,
       (readPair (stackAddr (t.sp + 1#8)) (stackAddr (t.sp + 1#8 + 1#8)) t).2.setSp (t.sp + 1#8 + 1#8)) :=
    fun _ => rfl
  have twoHigher : (s.afterCycles n e).sp + 1#8 + 1#8 = s.sp + 2#8 := BitVec.add_assoc s.sp 1#8 1#8
  rw [twoReads, twoHigher, readPair_eq]
  simp only [afterCycles_answerAfter, afterCycles_readEvent, afterCycles_afterCycles]
  rfl

/-- RTS pulls an address, makes a dummy read at it, and continues one after it (R124). -/
theorem exec_rts (s : State) :
    exec .rts s =
      let r := pullWord (beforePull s)
      .next ((dummyRead r.1 r.2).setPc (r.1 + 1#16)) := rfl

/-- Settles O46: two dummy reads (`beforePull_eq`), an address pulled (`pullWord_afterCycles`), a dummy read at it. -/
theorem rtsPullsAndAddsOne : Obligations.RtsPullsAndAddsOne := by
  refine ⟨rfl, fun s => ?_⟩
  simp only [exec_rts, beforePull_eq, pullWord_afterCycles, dummyRead, memRead_setSp, memRead_afterCycles]
  rfl

/-- What JSR leaves for a return: S two lower and PC pushed in memory, and a RAM bus stays one (R221). -/
theorem exec_jsr_stack {w : Word} {s t : State} (h : exec (.jsr w) s = .next t) :
    t.sp = s.sp - 2#8 ∧ t.mem = pcPushed s ∧ (s.RamBus → t.RamBus) := by
  rw [jsrPushesItsLastAddress.2 w s] at h
  cases h
  exact ⟨rfl, rfl, fun ram => congrArg (List.drop 2) ram⟩

/-- On a RAM bus RTS returns to the address that memory holds above S, and one (D16, R222). -/
theorem exec_rts_ram {s t : State} (ram : s.RamBus) (h : exec .rts s = .next t) :
    t.pc = joinBytes (s.peek (stackAddr (s.sp + 2#8))) (s.peek (stackAddr (s.sp + 1#8))) + 1#16 ∧
      t.sp = s.sp + 2#8 := by
  rw [rtsPullsAndAddsOne.2 s, answerAfter_ram ram, answerAfter_ram ram] at h
  cases h
  exact ⟨rfl, rfl⟩

/-- Settles O47: RTS pulls the two bytes that JSR pushed (`read_pcPushed`); neither writes A or a flag. -/
theorem rtsUndoesJsr : Obligations.RtsUndoesJsr := by
  intro w s ram wf
  obtain ⟨t, ht⟩ := exec_completes (.jsr w) s
  obtain ⟨u, hu⟩ := exec_completes .rts t
  obtain ⟨pushedSp, pushedMem, pushedRam⟩ := exec_jsr_stack ht
  obtain ⟨pulledPc, pulledSp⟩ := exec_rts_ram (pushedRam ram) hu
  obtain ⟨high, low⟩ := read_pcPushed wf
  have top : t.sp + 2#8 = s.sp := by rw [pushedSp, BitVec.sub_add_cancel]
  have next : t.sp + 1#8 = s.sp - 1#8 := by rw [pushedSp]; bv_omega
  refine ⟨t, u, ht, hu, ?pc, pulledSp.trans top, (execRts_p hu).trans (execJsr_p ht),
    ((exec_writesOnly hu).a rfl).trans ((exec_writesOnly ht).a rfl)⟩
  case pc => rw [pulledPc, top, next, State.peek, State.peek, pushedMem, high, low, joinBytes_hi_lo]

end Sys2Proof.Machine
end

section
/-! Stack, flags and system (R230 to R245). Pushes, pulls and the sequences that take an interrupt and return from one are
stated on top of bus cycles already made, so that an instruction is its dummy reads and then the sequence. -/

namespace Sys2Proof.Machine

/-! ### Illegal opcodes -/

/-- A listed opcode is the only byte its step fetches (R102, R245). -/
theorem fetchInstr_of_illegal {s : State} (listed : busAnswer s.pc s ∈ illegalOpcodes) :
    fetchInstr s =
      (.illegal (busAnswer s.pc s), (s.afterCycles 1 [.read s.pc (busAnswer s.pc s)]).setPc (s.pc + 1#16)) := by
  have fetched : (fetch s).2 = (s.afterCycles 1 [.read s.pc (busAnswer s.pc s)]).setPc (s.pc + 1#16) := by
    rw [fetch_eq, busAnswer_eq]; rfl
  rw [← fetched]
  exact fetchInstr_of_decode
    (decode_operandBytes (i := .illegal (busAnswer s.pc s)) (List.contains_iff_mem.mpr listed) rfl _)

/-- An illegal opcode puts PC back on itself and raises its fault (R245). -/
theorem exec_illegal (op : Byte) (s : State) :
    exec (.illegal op) s = .next (raiseFault (.illegalOpcode op (s.pc - 1#16)) (s.setPc (s.pc - 1#16))) := rfl

/-- A fault ends `run`, so that nothing is charged and no check point follows (R251). -/
theorem afterInstruction_raiseFault (calls : Nat) (f : Fault) (s : State) :
    afterInstruction calls (raiseFault f s) = raiseFault f s := if_pos rfl

/-- An illegal opcode's step is one bus read and the fault (R245, R251). -/
theorem step_of_illegal {s : State} (running : s.runState = .running) (quiet : s.nmiPending = false)
    (listed : busAnswer s.pc s ∈ illegalOpcodes) :
    step s = .next
      (raiseFault (.illegalOpcode (busAnswer s.pc s) s.pc) (s.afterCycles 1 [.read s.pc (busAnswer s.pc s)])) := by
  have back : s.pc + 1#16 - 1#16 = s.pc := BitVec.add_sub_cancel s.pc 1#16
  have executed : exec (fetchInstr s).1 (fetchInstr s).2 = .next
      (raiseFault (.illegalOpcode (busAnswer s.pc s) s.pc) (s.afterCycles 1 [.read s.pc (busAnswer s.pc s)])) := by
    rw [fetchInstr_of_illegal listed, exec_illegal, State.setPc_pc, back]; rfl
  rw [step_of_exec running quiet executed, afterInstruction_raiseFault]

/-- While a fault stands a call of `run` returns 0 at once (R251). -/
theorem hostRun_of_fault {s : State} {f : Fault} (halted : s.runState = .halted) (reset : s.resetDone = true)
    (fault : s.fault = some f) : hostRun s = .next { s with returned := some 0 } := by
  simp [hostRun, enterRun, halted, reset, fault]

theorem hostReset_fault {v : Drawn} {s t : State} (h : hostReset v s = .next t) : t.fault = s.fault := by
  unfold hostReset at h
  split at h
  case isTrue => cases h
  case isFalse => cases h; exact (drawRegisters_kept v s).fault

/-- Settles O17: the step and the meaning raise the fault (`step_of_illegal`, `exec_illegal`), and `run` and `reset` keep
it. -/
theorem anIllegalOpcodeFaultsPrecisely : Obligations.AnIllegalOpcodeFaultsPrecisely := by
  refine ⟨fun s running quiet listed => ?step, exec_illegal, fun s f halted reset fault => ⟨?run, fun v t h => ?reset⟩⟩
  case step => rw [step_of_illegal running quiet listed]; rfl
  case run => exact hostRun_of_fault halted reset fault
  case reset => exact (hostReset_fault h).trans fault

/-! ### Pushes and pulls -/

/-- A push after `n` reads and the cycles `e` (R33). -/
theorem push_afterCycles (v : Byte) (n : Nat) (e : List Event) (s : State) :
    push v (s.afterCycles n e) =
      ({ s with mem := s.mem.put (stackAddr s.sp) v }.afterCycles n (.write (stackAddr s.sp) v :: e)).setSp
        (s.sp - 1#8) := rfl

/-- A pull after `n` reads and the cycles `e` (R33). -/
theorem pull_afterCycles (n : Nat) (e : List Event) (s : State) :
    pull (s.afterCycles n e) =
      (s.answerAfter n (stackAddr (s.sp + 1#8)),
       (s.afterCycles (n + 1) (s.readEvent n (stackAddr (s.sp + 1#8)) :: e)).setSp (s.sp + 1#8)) := by
  rw [pull, memRead_setSp, memRead_afterCycles]
  rfl

/-- PHA and PHP push A and the status byte with B = 1 after the implied cycle (R127, R230, R231). -/
theorem exec_push {s : State} {i : Instr} {v : Byte} (h : (i, v) ∈ [(Instr.pha, s.a), (.php, packP s.p true)]) :
    exec i s = .next (push v (impliedCycle s)) := by
  simp only [List.mem_cons, List.not_mem_nil, or_false, Prod.mk.injEq] at h
  obtain ⟨rfl, rfl⟩ | ⟨rfl, rfl⟩ := h <;> rfl

/-- The pull of PLA and PLP: the third read, after two dummy reads (R128). -/
theorem pull_beforePull (s : State) :
    pull (beforePull s) =
      (s.answerAfter 2 (stackAddr (s.sp + 1#8)),
       (s.afterCycles 3 [s.readEvent 2 (stackAddr (s.sp + 1#8)), s.readEvent 1 (stackAddr s.sp),
         s.readEvent 0 s.pc]).setSp (s.sp + 1#8)) := by
  rw [beforePull_eq, pull_afterCycles]

/-- PLA moves the byte pulled to A, with the flags as the flags-from-value law gives them (R39, R232). -/
theorem exec_pla (s : State) :
    exec .pla s = .next (((pull (beforePull s)).2.setA (pull (beforePull s)).1).setP
      (s.p.fromValue (pull (beforePull s)).1)) := by
  rw [← Status.setZN_eq]; rfl

/-- PLP takes all six flags from the byte pulled (R233). -/
theorem exec_plp (s : State) :
    exec .plp s = .next ((pull (beforePull s)).2.setP (unpackP (pull (beforePull s)).1)) := rfl

/-- Settles O49: a push after one cycle (`push_afterCycles`), and a pull after two (`pull_beforePull`). -/
theorem stackInstructionsPushAndPull : Obligations.StackInstructionsPushAndPull := by
  refine ⟨by decide, fun s => ⟨fun i v h => ?push, ?pla, ?plp⟩⟩
  case push => rw [exec_push h, impliedCycle, dummyRead_eq, push_afterCycles]; rfl
  case pla => rw [exec_pla, pull_beforePull]; rfl
  case plp => rw [exec_plp, pull_beforePull]; rfl

/-- What PHA and PHP leave for a pull: S one lower and the byte pushed in memory, and a RAM bus stays one. -/
theorem exec_push_stack {s t : State} {i : Instr} {v : Byte}
    (h : (i, v) ∈ [(Instr.pha, s.a), (.php, packP s.p true)]) (ht : exec i s = .next t) :
    t.sp = s.sp - 1#8 ∧ t.mem = s.mem.put (stackAddr s.sp) v ∧ (s.RamBus → t.RamBus) := by
  rw [(stackInstructionsPushAndPull.2 s).1 i v h] at ht
  cases ht
  exact ⟨rfl, rfl, fun ram => congrArg (List.drop 1) ram⟩

/-- On a RAM bus the byte above S after PHA or PHP, and so the answer to every read there, is the one pushed (D16). -/
theorem exec_push_top {s t : State} {i : Instr} {v : Byte} (ram : s.RamBus) (wf : Memory.wf s.mem = true)
    (h : (i, v) ∈ [(Instr.pha, s.a), (.php, packP s.p true)]) (ht : exec i s = .next t) :
    t.sp + 1#8 = s.sp ∧ ∀ n, t.answerAfter n (stackAddr (t.sp + 1#8)) = v := by
  obtain ⟨pushedSp, pushedMem, pushedRam⟩ := exec_push_stack h ht
  obtain ⟨-, written, -⟩ := memoryIsRam s.mem (stackAddr s.sp) v wf
  have top : t.sp + 1#8 = s.sp := by rw [pushedSp, BitVec.sub_add_cancel]
  exact ⟨top, fun n => by rw [answerAfter_ram (pushedRam ram), State.peek, pushedMem, top, written]⟩

/-- Settles O50: each pull reads the byte pushed (`exec_push_top`), and a status byte unpacks to the flags packed in it. -/
theorem pullsUndoPushes : Obligations.PullsUndoPushes := by
  intro s v q ram wf
  constructor
  · obtain ⟨t, ht⟩ := exec_completes .pha s
    obtain ⟨sp, top⟩ := exec_push_top ram wf (.head _) ht
    exact ⟨t, _, ht, (stackInstructionsPushAndPull.2 { t with a := v }).2.1, top 2, sp, (exec_writesOnly ht).y rfl⟩
  · obtain ⟨t, ht⟩ := exec_completes .php s
    obtain ⟨sp, top⟩ := exec_push_top ram wf (.tail _ (.head _)) ht
    have flags : unpackP (t.answerAfter 2 (stackAddr (t.sp + 1#8))) = s.p := by rw [top, unpackP_packP]
    exact ⟨t, _, ht, (stackInstructionsPushAndPull.2 { t with p := q }).2.2, flags, sp, (exec_writesOnly ht).a rfl⟩

/-! ### Taking an interrupt and returning from one -/

/-- The three pushes of an interrupt, the newest first: PC, high byte first, and the status byte (R243, R270). -/
def interruptWrites (brk : Bool) (s : State) : List Event :=
  [.write (stackAddr (s.sp - 2#8)) (packP s.p brk), .write (stackAddr (s.sp - 1#8)) (lo s.pc),
    .write (stackAddr s.sp) (hi s.pc)]

/-- `s` with an interrupt's three bytes on the stack and I set, but for the bus record (R243, R270). -/
def interruptStacked (brk : Bool) (s : State) : State :=
  { s with
    mem := (pcPushed s).put (stackAddr (s.sp - 2#8)) (packP s.p brk)
    sp := s.sp - 3#8
    p := { s.p with i := true } }

/-- What an interrupt does before it reads its vector, after `n` reads and the cycles `e`. -/
theorem push_packP_pushPc_afterCycles (brk : Bool) (n : Nat) (e : List Event) (s : State) :
    (push (packP s.p brk) (pushPc (s.afterCycles n e))).disableInterrupts =
      (interruptStacked brk s).afterCycles n (interruptWrites brk s ++ e) := by
  have threeLower : s.sp - 2#8 - 1#8 = s.sp - 3#8 := by bv_omega
  rw [pushPc_afterCycles, interruptStacked, ← threeLower]
  rfl

/-- The shared interrupt sequence after `n` reads and the cycles `e`: the vector is read as the host answers after the
pushes (R243, R270). -/
theorem takeInterrupt_afterCycles (brk : Bool) (vector : Word) (n : Nat) (e : List Event) (s : State) :
    takeInterrupt brk vector (s.afterCycles n e) =
      let u := interruptStacked brk s
      (u.afterCycles (n + 2)
        (u.readEvent (n + 1) (vector + 1#16) :: u.readEvent n vector :: (interruptWrites brk s ++ e))).setPc
        (joinBytes (u.answerAfter (n + 1) (vector + 1#16)) (u.answerAfter n vector)) := by
  have vectorRead : takeInterrupt brk vector (s.afterCycles n e) =
      let r := readPair vector (vector + 1#16) (push (packP s.p brk) (pushPc (s.afterCycles n e))).disableInterrupts
      r.2.setPc r.1 := rfl
  rw [vectorRead, push_packP_pushPc_afterCycles, readPair_eq]
  simp only [afterCycles_answerAfter, afterCycles_readEvent, afterCycles_afterCycles]
  rfl

/-- RTI's three pulls after `n` reads and the cycles `e` (R244, R273). -/
theorem returnFromInterrupt_afterCycles (n : Nat) (e : List Event) (s : State) :
    returnFromInterrupt (s.afterCycles n e) =
      { s.afterCycles (n + 3)
          (s.readEvent (n + 2) (stackAddr (s.sp + 3#8)) :: s.readEvent (n + 1) (stackAddr (s.sp + 2#8)) ::
            s.readEvent n (stackAddr (s.sp + 1#8)) :: e) with
        sp := s.sp + 3#8
        p := unpackP (s.answerAfter n (stackAddr (s.sp + 1#8)))
        pc := joinBytes (s.answerAfter (n + 2) (stackAddr (s.sp + 3#8)))
          (s.answerAfter (n + 1) (stackAddr (s.sp + 2#8))) } := by
  have second : s.sp + 1#8 + 1#8 = s.sp + 2#8 := BitVec.add_assoc s.sp 1#8 1#8
  have third : s.sp + 1#8 + 2#8 = s.sp + 3#8 := BitVec.add_assoc s.sp 1#8 2#8
  have pulled : ((s.afterCycles (n + 1) (s.readEvent n (stackAddr (s.sp + 1#8)) :: e)).setSp (s.sp + 1#8)).setP
      (unpackP (s.answerAfter n (stackAddr (s.sp + 1#8)))) =
    ((s.setSp (s.sp + 1#8)).setP (unpackP (s.answerAfter n (stackAddr (s.sp + 1#8))))).afterCycles (n + 1)
      (s.readEvent n (stackAddr (s.sp + 1#8)) :: e) := rfl
  rw [returnFromInterrupt, pull_afterCycles]
  dsimp only
  rw [pulled, pullWord_afterCycles]
  simp only [State.setP_sp, State.setSp_sp, second, third]
  rfl

/-- BRK discards its signature byte and does not look at I (R126, R243). -/
theorem exec_brk (b : Byte) (s : State) : exec (.brk b) s = .next (takeInterrupt true 0xFFFE s) := rfl

/-- Settles O52: the shared interrupt sequence through the Irq vector (`takeInterrupt_afterCycles`). -/
theorem brkPushesAndTakesTheIrqVector : Obligations.BrkPushesAndTakesTheIrqVector :=
  ⟨fun _ => rfl, fun b s =>
    (exec_brk b s).trans (congrArg Host.Outcome.next (takeInterrupt_afterCycles true 0xFFFE 0 [] s))⟩

/-- RTI makes the two cycles of a pull before its three pulls (R125, R244). -/
theorem exec_rti (s : State) : exec .rti s = .next (returnFromInterrupt (beforePull s)) := rfl

/-- Settles O53: the two cycles of `beforePull_eq` and the three pulls (`returnFromInterrupt_afterCycles`). -/
theorem rtiPullsStatusAndPc : Obligations.RtiPullsStatusAndPc := by
  refine ⟨rfl, fun s => ?_⟩
  rw [exec_rti, beforePull_eq, returnFromInterrupt_afterCycles]

/-! ### Flags -/

/-- A flag instruction is the implied cycle and the flags; NOP writes the flags it finds (R111, R234 to R241). -/
theorem exec_flag {s : State} {i : Instr} {p : Status} (h : (i, p) ∈
    [(Instr.clc, { s.p with c := false }), (.sec, { s.p with c := true }), (.cli, { s.p with i := false }),
     (.sei, { s.p with i := true }), (.cld, { s.p with d := false }), (.sed, { s.p with d := true }),
     (.clv, { s.p with v := false }), (.nop, s.p)]) : exec i s = .next ((impliedCycle s).setP p) := by
  simp only [List.mem_cons, List.not_mem_nil, or_false, Prod.mk.injEq] at h
  obtain ⟨rfl, rfl⟩ | ⟨rfl, rfl⟩ | ⟨rfl, rfl⟩ | ⟨rfl, rfl⟩ | ⟨rfl, rfl⟩ | ⟨rfl, rfl⟩ | ⟨rfl, rfl⟩ | ⟨rfl, rfl⟩ := h
  all_goals rfl

/-- Settles O51: `exec_flag`, with the implied cycle written out. -/
theorem flagInstructionsChangeOneFlag : Obligations.FlagInstructionsChangeOneFlag := by
  refine ⟨by decide, fun s i p h => ?_⟩
  rw [exec_flag h, impliedCycle_eq]
  rfl

end Sys2Proof.Machine
end

section
/-! Interrupt entry, and RTI after it (R270 to R273). BRK and the two entries are one sequence after different reads, so
what RTI makes of it is proved once for all three. -/

namespace Sys2Proof.Machine

/-- An entry is two dummy reads at PC and then the shared sequence with B = 0 (R270). -/
theorem interruptEntry_eq (ty : IntType) (s : State) :
    interruptEntry ty s =
      takeInterrupt false (vectorOf ty) (s.afterCycles 2 [s.readEvent 1 s.pc, s.readEvent 0 s.pc]) := by
  have twoReads : dummyRead s.pc (dummyRead s.pc s) = (readPair s.pc s.pc s).2 := rfl
  rw [interruptEntry, twoReads, readPair_eq]

/-- Settles O54: the shared interrupt sequence (`takeInterrupt_afterCycles`) after the entry's two dummy reads. -/
theorem interruptEntrySavesAndVectors : Obligations.InterruptEntrySavesAndVectors := by
  intro ty s
  rw [interruptEntry_eq, takeInterrupt_afterCycles]
  cases ty <;> rfl

/-- The three stack bytes of an interrupt hold the status byte and PC, for they are three bytes. -/
theorem peek_interruptStacked (brk : Bool) {s : State} (wf : Memory.wf s.mem = true) :
    (interruptStacked brk s).peek (stackAddr (s.sp - 2#8)) = packP s.p brk ∧
      (interruptStacked brk s).peek (stackAddr (s.sp - 1#8)) = lo s.pc ∧
      (interruptStacked brk s).peek (stackAddr s.sp) = hi s.pc := by
  have belowHigh : stackAddr s.sp ≠ stackAddr (s.sp - 2#8) := fun same => by have := stackAddr_inj same; bv_omega
  have belowLow : stackAddr (s.sp - 1#8) ≠ stackAddr (s.sp - 2#8) := fun same => by
    have := stackAddr_inj same; bv_omega
  obtain ⟨high, low⟩ := read_pcPushed wf
  obtain ⟨-, status, others⟩ := memoryIsRam (pcPushed s) (stackAddr (s.sp - 2#8)) (packP s.p brk) (pushPc_wf s wf)
  exact ⟨status, (others _ belowLow).trans low, (others _ belowHigh).trans high⟩

/-- What an interrupt of `s` leaves in `t` for a return: the three bytes in memory, S three lower, A, X and Y as they
were, and a RAM bus still one (R270). -/
structure Interrupted (brk : Bool) (s t : State) : Prop where
  mem : t.mem = (interruptStacked brk s).mem
  sp : t.sp = s.sp - 3#8
  a : t.a = s.a
  x : t.x = s.x
  y : t.y = s.y
  ram : s.RamBus → t.RamBus

theorem takeInterrupt_interrupted (brk : Bool) (vector : Word) (n : Nat) (e : List Event) (s : State) :
    Interrupted brk s (takeInterrupt brk vector (s.afterCycles n e)) := by
  rw [takeInterrupt_afterCycles]
  exact ⟨rfl, rfl, rfl, rfl, rfl, fun ram => (congrArg (List.drop (n + 2)) ram).trans List.drop_nil⟩

/-- On a RAM bus RTI takes P and PC from the three bytes that memory holds above S (D16, R244). -/
theorem exec_rti_ram {s t : State} (ram : s.RamBus) (h : exec .rti s = .next t) :
    t.p = unpackP (s.peek (stackAddr (s.sp + 1#8))) ∧
      t.pc = joinBytes (s.peek (stackAddr (s.sp + 3#8))) (s.peek (stackAddr (s.sp + 2#8))) ∧ t.sp = s.sp + 3#8 := by
  rw [exec_rti, beforePull_eq, returnFromInterrupt_afterCycles] at h
  simp only [answerAfter_ram ram] at h
  cases h
  exact ⟨rfl, rfl, rfl⟩

/-- On a RAM bus RTI right after an interrupt pulls the three bytes pushed, whatever B is (R272, R273). -/
theorem Interrupted.exec_rti {brk : Bool} {s t : State} (h : Interrupted brk s t) (ram : s.RamBus)
    (wf : Memory.wf s.mem = true) :
    ∃ u, exec .rti t = .next u ∧
      u.pc = s.pc ∧ u.p = s.p ∧ u.sp = s.sp ∧ u.a = s.a ∧ u.x = s.x ∧ u.y = s.y := by
  have first : t.sp + 1#8 = s.sp - 2#8 := by rw [h.sp]; bv_omega
  have second : t.sp + 2#8 = s.sp - 1#8 := by rw [h.sp]; bv_omega
  have third : t.sp + 3#8 = s.sp := by rw [h.sp, BitVec.sub_add_cancel]
  obtain ⟨u, hu⟩ := exec_completes .rti t
  obtain ⟨status, low, high⟩ := peek_interruptStacked brk wf
  obtain ⟨pulledP, pulledPc, pulledSp⟩ := exec_rti_ram (h.ram ram) hu
  have kept := exec_writesOnly hu
  have peeked : ∀ a, t.peek a = (interruptStacked brk s).peek a := fun a => congrArg (Memory.read · a.toNat) h.mem
  refine ⟨u, hu, ?resumes, ?flags, pulledSp.trans third, (kept.a rfl).trans h.a,
    (kept.x rfl).trans h.x, (kept.y rfl).trans h.y⟩
  case resumes => rw [pulledPc, peeked, peeked, second, third, low, high, joinBytes_hi_lo]
  case flags => rw [pulledP, peeked, first, status, unpackP_packP]

/-- Settles O55: an entry and BRK are the shared sequence, after two reads and after none
(`takeInterrupt_interrupted`), and RTI undoes it (`Interrupted.exec_rti`). -/
theorem rtiResumesTheInterruptedProgram : Obligations.RtiResumesTheInterruptedProgram := by
  refine fun s ram wf => ⟨fun ty => ?entry, fun b => ?brk⟩
  case entry =>
    rw [interruptEntry_eq]
    exact (takeInterrupt_interrupted ..).exec_rti ram wf
  case brk =>
    have returned := (takeInterrupt_interrupted true 0xFFFE 0 [] s).exec_rti ram wf
    exact ⟨_, returned.imp fun _ resumed => ⟨exec_brk b s, resumed⟩⟩

end Sys2Proof.Machine
end

section
/-! The scheduler (R251, R258, R260 to R268): a call of `run`, the charge of a step, and the check point after it. -/

namespace Sys2Proof.Machine

/-! ### A call of `run` -/

theorem hostRun_of_halted {s : State} (halted : s.runState = .halted) : hostRun s = .next (enterRun s) :=
  if_neg (by rw [halted]; decide)

/-- A call of `run` begins in a block that has been reset and stands in no fault; in any other it returns at once, and
the block stays Halted (R251, R252, R267). -/
theorem enterRun_cases {s : State} (halted : s.runState = .halted) :
    (s.resetDone = true ∧ s.fault = none ∧
      enterRun s = { s with runState := .running, runCycles := 0, returned := none }) ∨
    (¬ (s.resetDone = true ∧ s.fault = none) ∧ (enterRun s).runState = .halted) := by
  unfold enterRun
  rw [if_neg (by rw [halted]; decide)]
  split
  case isTrue unreset => exact .inr ⟨by simp [unreset], halted⟩
  case isFalse reset =>
    split
    case isTrue faulty => exact .inr ⟨fun ready => by simp [ready.2] at faulty, halted⟩
    case isFalse sound => exact .inl ⟨by simpa using reset, by simpa using sound, rfl⟩

/-- From Halted a step is the first turn of the call that begins (R267). -/
theorem step_of_entered {s : State} (entered : (enterRun s).runState = .running) : step s = step (enterRun s) := by
  unfold step
  rw [enterRun_of_running entered]

/-- Settles O7: a call of `run` begins or returns at once (`enterRun_cases`), and a step from Halted is that call. -/
theorem stepFromHaltedBeginsARun : Obligations.StepFromHaltedBeginsARun := by
  refine ⟨fun s running => if_pos running, fun s halted =>
    ⟨enterRun s, hostRun_of_halted halted, fun h => if_pos h, ?_⟩⟩
  obtain ⟨reset, sound, entered⟩ | ⟨unready, returned⟩ := enterRun_cases halted
  · have running : (enterRun s).runState = .running := by rw [entered]
    exact ⟨fun _ => ⟨step_of_entered running, entered⟩, fun _ => ⟨reset, sound⟩, fun _ => running⟩
  · have notRunning : (enterRun s).runState ≠ .running := by rw [returned]; decide
    exact ⟨fun running => absurd running notRunning, fun running => absurd running notRunning,
      fun ready => absurd ready unready⟩

/-- Before the first `reset` a call of `run` records NotReset and returns 0 (R252). -/
theorem hostRun_of_not_reset {s : State} (halted : s.runState = .halted) (unreset : s.resetDone = false) :
    hostRun s = .next { s with fault := some .notReset, returned := some 0 } := by
  simp [hostRun, enterRun, halted, unreset]

/-- `reset` leaves the block Halted and reset, and keeps the value `run` returned last (R300). -/
theorem hostReset_halted {v : Drawn} {s t : State} (halted : s.runState = .halted) (h : hostReset v s = .next t) :
    t.runState = .halted ∧ t.resetDone = true ∧ t.returned = s.returned := by
  have kept := drawRegisters_kept v s
  unfold hostReset at h
  split at h
  case isTrue => cases h
  case isFalse => cases h; exact ⟨kept.runState.trans halted, rfl, kept.returned⟩

/-- Settles O16: the call itself (`hostRun_of_not_reset`), and the standing fault after a `reset` (`hostRun_of_fault`). -/
theorem runBeforeResetFaults : Obligations.RunBeforeResetFaults := by
  intro s halted unreset t
  refine ⟨hostRun_of_not_reset halted unreset, hostRun_of_not_reset (s := t) halted unreset, fun v u reset => ?_⟩
  have fault : u.fault = some .notReset := hostReset_fault reset
  obtain ⟨stillHalted, done, returned⟩ := hostReset_halted (s := t) halted reset
  have returnedZero : u.returned = some 0 := returned
  have unchanged : { u with returned := some 0 } = u := by rw [← returnedZero]
  exact ⟨fault, (hostRun_of_fault stillHalted done fault).trans (congrArg _ unchanged)⟩

/-- Settles O18: the two branches of `interupt`. -/
theorem interuptOnlySetsItsLatch : Obligations.InteruptOnlySetsItsLatch := fun _ => ⟨rfl, rfl⟩

/-! ### The check point -/

/-- R262: there is no check point while the budget lasts. -/
theorem checkPoint_of_budget {s : State} (left : 0 < s.budget) : checkPoint s = s := if_neg (not_le.mpr left)

/-- R262: a spent budget is set to PERIOD, and the host is polled. -/
theorem checkPoint_of_spent {s : State} (spent : s.budget ≤ 0) :
    checkPoint s =
      let r := poll { s with budget := s.params.period }
      actOnSignal r.1 r.2 :=
  if_pos spent

theorem nextReply_eq (s : State) : nextReply s = s.replies.headD (Config.freeReply s.draws) := by
  unfold nextReply
  split <;> rename_i replies <;> rw [replies] <;> rfl

/-- A poll takes the next listed reply, or draws one (R17, R262). -/
theorem poll_eq (s : State) :
    poll s =
      let r := s.replies.headD (Config.freeReply s.draws)
      (r.signal,
       { s with
          replies := s.replies.tail
          draws := s.draws + (if s.replies = [] then 1 else 0)
          irqPending := s.irqPending || r.raisesIrq
          nmiPending := s.nmiPending || r.raisesNmi
          trace := .poll r.signal :: s.trace }) := by
  have drawn : (if s.replies.isEmpty then s.draws + 1 else s.draws) = s.draws + (if s.replies = [] then 1 else 0) := by
    cases s.replies <;> rfl
  rw [poll, nextReply_eq, drawn]

/-- An entry costs 7 cycles (R261, R270). -/
theorem chargedEntry_eq (ty : IntType) (s : State) :
    chargedEntry ty s = { interruptEntry ty s with runCycles := s.runCycles + 7, budget := s.budget - 7 } := by
  have kept := interruptEntry_kept s ty
  rw [← kept.runCycles, ← kept.budget]
  rfl

/-- An Irq request is dropped with I = 1 and entered with I = 0, its latch clear in both (R263). -/
theorem serviceIrq_eq (s : State) :
    serviceIrq s =
      if s.p.i then { s with irqPending := false }
      else
        { interruptEntry .irq { s with irqPending := false } with
          runCycles := s.runCycles + 7, budget := s.budget - 7 } := by
  rw [serviceIrq, chargedEntry_eq]

/-- Settles O57: the poll (`poll_eq`), and the branch of `actOnSignal` that its answer takes. -/
theorem theCheckPointActsOnThePoll : Obligations.TheCheckPointActsOnThePoll := by
  refine fun s => ⟨checkPoint_of_budget, fun spent => ?_⟩
  intro r irq s1 quiet entered
  have acted : checkPoint s = actOnSignal r.signal s1 := by rw [checkPoint_of_spent spent, poll_eq]
  refine ⟨fun answer => ?quit, fun answer => ?nmi, fun request => ?irq, fun answer unlatched => ?cont⟩
  case quit => rw [acted, answer]; rfl
  case nmi => rw [acted, answer, actOnSignal, chargedEntry_eq]
  case irq =>
    have served : checkPoint s = serviceIrq s1 := by
      obtain answer | ⟨answer, latched⟩ := request
      · rw [acted, answer]; rfl
      · rw [acted, answer]; exact if_pos latched
    rw [served, serviceIrq_eq]
  case cont => rw [acted, answer]; exact if_neg (ne_true_of_eq_false unlatched)

theorem chargedEntry_busCalls (ty : IntType) (s : State) : (chargedEntry ty s).busCalls = s.busCalls + 7 :=
  interruptEntry_busCalls ty s

theorem serviceIrq_busCalls (s : State) :
    (serviceIrq s).busCalls = s.busCalls ∨ (serviceIrq s).busCalls = s.busCalls + 7 := by
  unfold serviceIrq
  split
  · exact .inl rfl
  · exact .inr (chargedEntry_busCalls .irq { s with irqPending := false })

theorem actOnSignal_busCalls (signal : PollSignal) (s : State) :
    (actOnSignal signal s).busCalls = s.busCalls ∨ (actOnSignal signal s).busCalls = s.busCalls + 7 := by
  cases signal with
  | quit => exact .inl rfl
  | nmi => exact .inr (chargedEntry_busCalls .nmi s)
  | irq => exact serviceIrq_busCalls s
  | cont =>
    dsimp only [actOnSignal]
    split
    · exact serviceIrq_busCalls s
    · exact .inl rfl

/-- A check point makes no bus call, or those of the one entry it may make (R263). -/
theorem checkPoint_busCalls (s : State) :
    (checkPoint s).busCalls = s.busCalls ∨ (checkPoint s).busCalls = s.busCalls + 7 := by
  unfold checkPoint
  split
  · exact actOnSignal_busCalls _ _
  · exact .inl rfl

/-! ### The charge of a step -/

theorem afterInstruction_of_running {t : State} (running : t.runState = .running) (calls : Nat) :
    afterInstruction calls t = finishStep calls t :=
  if_neg (by rw [running]; decide)

/-- Settles O8: the branches of `afterInstruction` (`afterInstruction_of_running`) and of `checkPoint`. -/
theorem anInstructionsCostIsCharged : Obligations.AnInstructionsCostIsCharged := by
  refine fun calls t => ⟨fun running => ?charged, fun running small => ?unspent, fun halted => if_pos halted⟩
  case charged => exact afterInstruction_of_running running calls
  case unspent =>
    rw [afterInstruction_of_running running]
    exact checkPoint_of_budget (sub_pos.mpr small)

/-- The charge of a step whose bus accesses took `s` to `t`, counted from `s`. -/
theorem finishStep_of_kept {s t : State} (kept : SchedulerKept s t) :
    finishStep s.busCalls t = checkPoint
      { t with
        runCycles := s.runCycles + (t.busCalls - s.busCalls)
        budget := s.budget - ((t.busCalls - s.busCalls : Nat) : Int) } := by
  rw [← kept.runCycles, ← kept.budget]
  rfl

/-- R260: inside `run` a set Nmi latch decides the step. -/
theorem step_of_nmi {s : State} (running : s.runState = .running) (latched : s.nmiPending = true) :
    step s = .next (nmiStep s) := by
  simp [step, enterRun_of_running running, running, latched]

/-- Settles O56: the step is the Nmi entry (`step_of_nmi`), and an entry makes 7 bus calls. -/
theorem aLatchedNmiIsServedFirst : Obligations.ALatchedNmiIsServedFirst := by
  intro s running latched e
  have calls : e.busCalls = s.busCalls + 7 := interruptEntry_busCalls .nmi _
  have kept : SchedulerKept { s with nmiPending := false } e := interruptEntry_kept _ .nmi
  have charged := finishStep_of_kept kept
  rw [calls, Nat.add_sub_cancel_left] at charged
  exact ⟨calls, (step_of_nmi running latched).trans (congrArg _ charged)⟩

end Sys2Proof.Machine
end
section
/-! The cost of a step (R268): every instruction that the opcode map has a cell for, and an Nmi entry, makes 2 to 7 bus
calls, its fetches counted in. -/

namespace Sys2Proof.Machine

theorem readMode_cycles_bounds (m : ReadMode) : 2 ≤ m.cycles ∧ m.cycles ≤ 6 := by
  cases m with
  | imm => simp [ReadMode.cycles]
  | mem mm => cases mm <;> simp [ReadMode.cycles]

theorem readMode_crossing_le (m : ReadMode) (s : State) : m.crossing s ≤ 1 := by
  cases m with
  | imm => exact Nat.zero_le 1
  | mem mm =>
    cases mm
    case absx | absy | izy => dsimp only [ReadMode.crossing]; split <;> decide
    all_goals exact Nat.zero_le 1

theorem writeCycles_bounds (m : MemMode) : 3 ≤ m.writeCycles ∧ m.writeCycles ≤ 6 := by
  cases m <;> simp [MemMode.writeCycles]

/-- Only the two modes that no read-modify-write operation takes would cost 8 (R118). -/
theorem modifyCycles_bounds {m : MemMode} (taken : m.isByX = true) : 5 ≤ m.modifyCycles ∧ m.modifyCycles ≤ 7 := by
  cases m
  case zpy | absy | izx | izy => cases taken
  all_goals simp [MemMode.modifyCycles]

theorem rmwMode_cycles_bounds {m : RmwMode} (taken : m.accOr MemMode.isByX = true) : 2 ≤ m.cycles ∧ m.cycles ≤ 7 := by
  cases m with
  | acc => decide
  | mem mm =>
    obtain ⟨low, high⟩ := modifyCycles_bounds (m := mm) taken
    exact ⟨le_trans (by decide) low, high⟩

theorem branchExtra_le (taken : Bool) (d : Byte) (s : State) : branchExtra taken d s ≤ 2 := by
  unfold branchExtra
  repeat' split
  all_goals decide

/-- The cycles of a documented instruction that the map has a cell for (R132, R268). -/
theorem instruction_cycles_bounds {i : Instr} (wf : wellFormed i = true) (hi : i.documented = true) (s : State) :
    2 ≤ baseCycles i + extraCycles i s ∧ baseCycles i + extraCycles i s ≤ 7 := by
  cases i
  case lda m | ldx m | ldy m | adc m | sbc m | and m | ora m | eor m | cmp m | cpx m | cpy m | bit m =>
    obtain ⟨low, high⟩ := readMode_cycles_bounds m
    have := readMode_crossing_le m s
    simp only [baseCycles, extraCycles]
    omega
  case sta m | stx m | sty m =>
    obtain ⟨low, high⟩ := writeCycles_bounds m
    simp only [baseCycles, extraCycles]
    omega
  case asl m | lsr m | rol m | ror m => exact rmwMode_cycles_bounds wf
  case inc m | dec m =>
    obtain ⟨low, high⟩ := modifyCycles_bounds wf
    simp only [baseCycles, extraCycles]
    omega
  case bcc d | bcs d | beq d | bne d | bmi d | bpl d | bvc d | bvs d =>
    exact ⟨Nat.le_add_right .., Nat.add_le_add_left ((branchExtra_le _ d s).trans (by decide : 2 ≤ 5)) 2⟩
  case jmp m => cases m <;> simp [baseCycles, extraCycles]
  case illegal => cases hi
  all_goals simp [baseCycles, extraCycles]

theorem fetch_busCalls (s : State) : (fetch s).2.busCalls = s.busCalls + 1 := rfl

theorem afterFetches_busCalls (n : Nat) (s : State) : (afterFetches n s).busCalls = s.busCalls + n := by
  induction n generalizing s with
  | zero => rfl
  | succ n ih => rw [afterFetches, ih, fetch_busCalls, Nat.add_right_comm, Nat.add_assoc]

/-- A step fetches an instruction that the map has a cell for, or a listed illegal one (R102). -/
theorem wellFormed_fetchInstr (s : State) : wellFormed (fetchInstr s).1 = true := by
  rw [fetchInstr_eq]
  exact wellFormed_instrOf ..

theorem fetchInstr_busCalls (s : State) : (fetchInstr s).2.busCalls = s.busCalls + fetchedBytes (fetchInstr s).1 := by
  rw [fetchInstr_eq, instrOf, fetchedBytes_decodeOp]
  exact afterFetches_busCalls _ s

/-- An instruction with its fetches makes 2 to 7 bus calls (R268). -/
theorem exec_fetchInstr_busCalls {s u : State} (hi : (fetchInstr s).1.documented = true)
    (h : exec (fetchInstr s).1 (fetchInstr s).2 = .next u) :
    s.busCalls + 2 ≤ u.busCalls ∧ u.busCalls ≤ s.busCalls + 7 := by
  have fetched := fetchInstr_busCalls s
  have executed := exec_busCalls hi h
  obtain ⟨low, high⟩ := instruction_cycles_bounds (wellFormed_fetchInstr s) hi (fetchInstr s).2
  omega

/-- What is executed without a fault is no illegal opcode (R245). -/
theorem documented_of_afterInstruction_fault {i : Instr} {s u : State} {calls : Nat} (h : exec i s = .next u)
    (sound : (afterInstruction calls u).fault = none) : i.documented = true := by
  cases i
  case illegal => cases h; cases sound
  all_goals rfl

/-- A documented instruction inside `run` is charged its bus calls (R261). -/
theorem afterInstruction_of_documented {s u : State} (running : s.runState = .running)
    (hi : (fetchInstr s).1.documented = true) (h : exec (fetchInstr s).1 (fetchInstr s).2 = .next u) :
    afterInstruction s.busCalls u = checkPoint
      { u with
        runCycles := s.runCycles + (u.busCalls - s.busCalls)
        budget := s.budget - ((u.busCalls - s.busCalls : Nat) : Int) } := by
  have kept : SchedulerKept s u := (fetchInstr_kept s).trans (exec_kept hi h)
  rw [afterInstruction_of_running (kept.runState.trans running)]
  exact finishStep_of_kept kept

/-- Settles O13: an Nmi entry makes 7 bus calls (`aLatchedNmiIsServedFirst`), an instruction 2 to 7
(`exec_fetchInstr_busCalls`), and the check point none or 7 (`checkPoint_busCalls`). -/
theorem everyStepTakesTwoToSevenBusCalls : Obligations.EveryStepTakesTwoToSevenBusCalls := by
  intro s t running _ h sound
  cases latched : s.nmiPending
  case true =>
    obtain ⟨calls, served⟩ := aLatchedNmiIsServedFirst s running latched
    rw [served] at h
    cases h
    refine ⟨interruptEntry .nmi { s with nmiPending := false }, fun _ => rfl, nofun, by omega, by omega, ?charge,
      checkPoint_busCalls _⟩
    case charge => rw [calls, Nat.add_sub_cancel_left]; rfl
  case false =>
    obtain ⟨u, hu⟩ := exec_completes (fetchInstr s).1 (fetchInstr s).2
    rw [step_of_exec running latched hu] at h
    cases h
    have hi := documented_of_afterInstruction_fault hu sound
    have charged := afterInstruction_of_documented running hi hu
    obtain ⟨low, high⟩ := exec_fetchInstr_busCalls hi hu
    refine ⟨u, nofun, fun _ => hu, low, high, charged, ?entry⟩
    case entry => rw [charged]; exact checkPoint_busCalls _

end Sys2Proof.Machine
end
section
/-! What `reset` leaves (R300). -/

namespace Sys2Proof.Machine

/-- The registers of a first reset are the drawn ones, field by field (R300, R303). -/
theorem drawRegisters_eq (v : Drawn) (s : State) :
    s.drawRegisters v =
      { s with
        a := if s.resetDone then s.a else v.a
        x := if s.resetDone then s.x else v.x
        y := if s.resetDone then s.y else v.y
        p := if s.resetDone then s.p else v.p } := by
  unfold State.drawRegisters
  split <;> rfl

theorem hostReset_of_running (v : Drawn) {s : State} (running : s.runState = .running) :
    hostReset v s = .refused .resetInsideRun :=
  if_pos running

/-- Outside `run` a reset reads the vector after the draw and I <- 1 (R300). -/
theorem hostReset_of_halted (v : Drawn) {s : State} (halted : s.runState = .halted) :
    hostReset v s =
      let w := readPair resetVector (resetVector + 1#16) (s.drawRegisters v).disableInterrupts
      .next
        { w.2.setPc w.1 with
          sp := s.params.resetSp, nmiPending := false, irqPending := false, budget := s.params.period
          resetDone := true } :=
  if_neg (by rw [halted]; decide)

/-- Settles O14: the refusal, and outside `run` the two reads of the vector (`readPair_eq_busAnswer`), whose answers do
not depend on the registers drawn before them (`drawRegisters_eq`). -/
theorem resetLoadsThePcAndStackPointer : Obligations.ResetLoadsThePcAndStackPointer := by
  refine fun v s => ⟨hostReset_of_running v, fun halted => ?_⟩
  rw [hostReset_of_halted v halted, readPair_eq_busAnswer, drawRegisters_eq]
  rfl

end Sys2Proof.Machine
end
